-- ==== Sys2Proof/Word.lean ====
section
/-! DEFINITION. The word types of the block (00_scope R8): bytes, 16-bit quantities, run-time codes
and the 8-byte device address. The helpers that take words apart are in Machine/Operands.lean. -/

namespace Sys2Proof

/-- A byte is 8 bits, bit 0 the least significant (R8). -/
abbrev Byte := BitVec 8

/-- A CRC, checksum or remaining-length value: 16 bits (R83). -/
abbrev Half := BitVec 16

/-- A run-time code: 4 bits, values 0..15 (00_scope §6, R22). -/
abbrev Code := Fin 16

/-- A device address: 8 bytes, byte 0 first on the wire (R24). -/
abbrev Addr := Vector Byte 8

end Sys2Proof
end

