-- ==== Sys2Proof/Config.lean ====
section
/-! DEFINITION. What an implementation fixes: the constants of 00_scope R6, the configuration
record `Cfg` of R7, and the values the spec leaves OPEN, which are constants without a body. -/

namespace Sys2Proof

/-! ### Constants the source fixes (R6) -/

namespace Const

/-- `HEADER_SIZE`: bytes in a block header. -/
def headerSize : Nat := 8
/-- `MAX_BLOCK`: most payload bytes in one block. -/
def maxBlock : Nat := 120
/-- `PHYS_BLOCK` = `HEADER_SIZE + MAX_BLOCK`. -/
def physBlock : Nat := 128
/-- `MAX_PAYLOAD`: largest payload accepted. -/
def maxPayload : Nat := 16384
/-- `FINAL_BIT`: final-block marker in header byte 0. -/
def finalBit : Byte := 0x80
/-- `RESERVED_RX`: leading bytes of every inbound data block that are discarded. -/
def reservedRx : Nat := 3
/-- `TABLE_LEN`: entries of the correction table. -/
def tableLen : Nat := 139
/-- `POLL_LIMIT`: poll-loop iteration bound. -/
def pollLimit : Nat := 200
/-- `MAX_ATTEMPTS`: transfer attempts. -/
def maxAttempts : Nat := 3
/-- `MIN`, also `CODE_MIN`: least run-time code. -/
def minCode : Code := 0
/-- `BASE_MIN`: least legal base delay, ms. -/
def baseMin : Nat := 63
/-- `INCR_MIN`: least legal increment, ms. -/
def incrMin : Nat := 250
/-- `BUSY_BUMP`: added to the run-time code when the co-processor is busy. -/
def busyBump : Nat := 6
/-- `FB_OPTIMUM`: run-time code set on the first-birthday pattern. -/
def fbOptimum : Code := 6
/-- `CNC_FIRST`: run-time code after the first escalation from `MIN`. -/
def cncFirst : Code := 2
/-- `POR_BIT`: POR flag in status byte 2. -/
def porBit : Byte := 0x40
/-- `CNC_BIT`: "command not complete" in status byte 2. -/
def cncBit : Byte := 0x20
/-- `CPBUSY_BIT`: co-processor busy in status byte 3. -/
def cpBusyBit : Byte := 0x01
/-- `PREFIX_LEN`: marker byte and 8 address bytes. -/
def prefixLen : Nat := 9
/-- `STATUS_LEN`: status register bytes. -/
def statusLen : Nat := 4
/-- `STATUS_SPAN`: bytes covered by the status CRC check, and the key of its correction (R170). -/
def statusSpan : Nat := 7

end Const

/-! ### Types of the parameters -/

/-- `TABLE_FEED` (R132): how a table entry is fed to the CRC to make the next one. -/
inductive TableFeed
  | le16 | be16 | low8
  deriving DecidableEq, Repr

/-- `CRC16` (R7, R130): the default function, or a total function of seed and data of which nothing
else is known (U18; log 2). -/
inductive CrcFn
  | oneWire | other
  deriving DecidableEq, Repr

/-- `CHK_UPDATE` (R7, R154): the default 16-bit byte sum, or a function of which nothing is known
(U1; log 3). -/
inductive ChkFn
  | byteSum | other
  deriving DecidableEq, Repr

/-- A release code of 2 or 3 bytes (R81, R88). -/
inductive RelCode
  | two (a b : Byte)
  | three (a b c : Byte)
  deriving DecidableEq, Repr, Inhabited

/-- A release code of exactly 2 bytes: run, interrupt, reset, write status (R88). -/
structure RelPair where
  first : Byte
  second : Byte
  deriving DecidableEq, Repr, Inhabited

/-- The configuration record of R7. It is plain data; every operation leaves it unchanged (R72). -/
structure Cfg where
  selectCmd : Byte
  cmdWriteHeader : Byte
  cmdReadHeader : Byte
  cmdWriteData : Byte
  cmdReadData : Byte
  cmdRun : Byte
  cmdInterrupt : Byte
  cmdReset : Byte
  cmdReadStatus : Byte
  cmdWriteStatus : Byte
  relWriteHeader : RelCode
  relReadHeader : RelCode
  relWriteData : RelCode
  relReadData : RelCode
  relRun : RelPair
  relInterrupt : RelPair
  relReset : RelPair
  relWriteStatus : RelPair
  pwrWriteHeader : Bool
  pwrReadHeader : Bool
  pwrWriteData : Bool
  pwrReadData : Bool
  pwrWriteStatus : Bool
  scNeedsMoreTime : BitVec 5
  scFirstBirthday : BitVec 5
  scMasterErase : BitVec 5
  scResponseIncomplete : BitVec 5
  scVmIncomplete : BitVec 5
  scCommandComplete : BitVec 5
  freeDontcareMask : Byte
  blockCrcSeed : Half
  statusCrcSeed : Half
  crcFn : CrcFn
  crcFieldXor : Half
  tableFeed : TableFeed
  notUnderstoodBit : Bool
  chkFn : ChkFn
  baseReset : BitVec 32
  incrReset : BitVec 32
  minReadRtReset : Code
  deriving DecidableEq, Repr

/-- The nine command bytes of R88. -/
def Cfg.commands (c : Cfg) : List Byte :=
  [c.cmdWriteHeader, c.cmdReadHeader, c.cmdWriteData, c.cmdReadData, c.cmdRun, c.cmdInterrupt,
   c.cmdReset, c.cmdReadStatus, c.cmdWriteStatus]

/-- The five sub-codes that R7 says are pairwise different. -/
def Cfg.subCodes (c : Cfg) : List (BitVec 5) :=
  [c.scFirstBirthday, c.scMasterErase, c.scResponseIncomplete, c.scVmIncomplete,
   c.scCommandComplete]

/-- The constraints R7 puts on a configuration; the lengths of the release codes hold by their
types. A record that breaks them is no configuration of this hardware (U9; log 22). -/
def Cfg.wf (c : Cfg) : Bool :=
  decide c.commands.Nodup && decide c.subCodes.Nodup
    && decide (Const.baseMin ≤ c.baseReset.toNat) && decide (Const.incrMin ≤ c.incrReset.toNat)

/-! ### The configuration of the machine: OPEN values have no body (R7, U3; log 1) -/

namespace Config

opaque selectCmd : Byte
opaque cmdWriteHeader : Byte
opaque cmdReadHeader : Byte
opaque cmdWriteData : Byte
opaque cmdReadData : Byte
opaque cmdRun : Byte
opaque cmdInterrupt : Byte
opaque cmdReset : Byte
opaque cmdReadStatus : Byte
opaque cmdWriteStatus : Byte
opaque relWriteHeader : RelCode
opaque relReadHeader : RelCode
opaque relWriteData : RelCode
opaque relReadData : RelCode
opaque relRun : RelPair
opaque relInterrupt : RelPair
opaque relReset : RelPair
opaque relWriteStatus : RelPair
opaque scNeedsMoreTime : BitVec 5
opaque scFirstBirthday : BitVec 5
opaque scMasterErase : BitVec 5
opaque scResponseIncomplete : BitVec 5
opaque scVmIncomplete : BitVec 5
opaque scCommandComplete : BitVec 5
opaque freeDontcareMask : Byte
opaque blockCrcSeed : Half
opaque statusCrcSeed : Half

/-- The CRC of a configuration with `CrcFn.other`: a function of seed and data, nothing more. -/
opaque crcOther : Half → List Byte → Half

/-- The checksum update of a configuration with `ChkFn.other`. -/
opaque chkOther : Half → List Byte → Half

/-- The address of the instance, supplied by the host (R24, R35; log 4). -/
opaque addr : Addr

/-- The configuration after reset: the OPEN rows of R7 as the constants above, every other row at
the default R7 gives. -/
def cfg : Cfg where
  selectCmd := selectCmd
  cmdWriteHeader := cmdWriteHeader
  cmdReadHeader := cmdReadHeader
  cmdWriteData := cmdWriteData
  cmdReadData := cmdReadData
  cmdRun := cmdRun
  cmdInterrupt := cmdInterrupt
  cmdReset := cmdReset
  cmdReadStatus := cmdReadStatus
  cmdWriteStatus := cmdWriteStatus
  relWriteHeader := relWriteHeader
  relReadHeader := relReadHeader
  relWriteData := relWriteData
  relReadData := relReadData
  relRun := relRun
  relInterrupt := relInterrupt
  relReset := relReset
  relWriteStatus := relWriteStatus
  pwrWriteHeader := false
  pwrReadHeader := false
  pwrWriteData := false
  pwrReadData := false
  pwrWriteStatus := false
  scNeedsMoreTime := scNeedsMoreTime
  scFirstBirthday := scFirstBirthday
  scMasterErase := scMasterErase
  scResponseIncomplete := scResponseIncomplete
  scVmIncomplete := scVmIncomplete
  scCommandComplete := scCommandComplete
  freeDontcareMask := freeDontcareMask
  blockCrcSeed := blockCrcSeed
  statusCrcSeed := statusCrcSeed
  crcFn := .oneWire
  crcFieldXor := 0xFFFF
  tableFeed := .le16
  notUnderstoodBit := true
  chkFn := .byteSum
  baseReset := 63
  incrReset := 250
  minReadRtReset := 0

end Config

end Sys2Proof
end

