-- ==== Sys2Proof/Syntax.lean ====
section
/-! DEFINITION. The operations of the block, one constructor of `Instr` for each row of
spec/opcode_table.json: the 24 host operations of 30_encoding R89 in the table's order, PORRECOVER
(R183), and the nine wire commands of R88. -/

namespace Sys2Proof

/-- The direction argument of a poll (R28, R173). -/
inductive Dir
  | send | receive
  deriving DecidableEq, Repr

/-- A StatusSnapshot: the decoding of the device's four status bytes (R32). -/
structure Snapshot where
  free : Byte
  used : Byte
  por : Bool
  cnc : Bool
  sub : BitVec 5
  busy : Bool
  deriving DecidableEq, Repr

/-- The operations. Run-time codes and lengths are integers, as the operand ports give them: codes
clamp (R87 e), lengths are compared as integers (R136). -/
inductive Instr
  /-- 0x01, R120 -/
  | tomillis (code : Int)
  /-- 0x02, R121 -/
  | setbase (ms : Nat)
  /-- 0x03, R122 -/
  | setincr (ms : Nat)
  /-- 0x04, R130 -/
  | crc16 (seed : Half) (data : List Byte)
  /-- 0x05, R133 -/
  | correction (length : Int)
  /-- 0x06, R134 -/
  | validate (crc : Half) (length : Int)
  /-- 0x07, R150 -/
  | fraginit (payload : List Byte)
  /-- 0x08, R151 -/
  | nextheader
  /-- 0x09, R152 -/
  | nextdata
  /-- 0x0A, R155 -/
  | acceptblock (header data : List Byte) (snap : Snapshot)
  /-- 0x0B, R156 -/
  | finish
  /-- 0x0C, R171 -/
  | decodestatus (bytes : List Byte)
  /-- 0x0D, R170 -/
  | readstatus
  /-- 0x0E, R172 -/
  | writestatus (code : Int)
  /-- 0x0F, R173 -/
  | poll (dir : Dir) (code : Int)
  /-- 0x10, R200 -/
  | exchange (cmdbytes rel : List Byte) (power : Bool) (ms : Nat)
  /-- 0x11, R206 -/
  | run (code : Int)
  /-- 0x12, R207 -/
  | interrupt (code : Int)
  /-- 0x13, R208 -/
  | devreset
  /-- 0x14, R209 -/
  | writeheader (h : List Byte)
  /-- 0x15, R210 -/
  | readheader
  /-- 0x16, R211 -/
  | writedata (d : List Byte)
  /-- 0x17, R212 -/
  | readdata (n : Nat)
  /-- 0x18, R230 -/
  | transfer (payload : List Byte) (code : Int)
  /-- no host code, R183 -/
  | porrecover
  /-- frame `CMD_WRITE_HEADER`, R88, R209 -/
  | wireWriteHeader (h : List Byte)
  /-- frame `CMD_READ_HEADER`, R88, R210 -/
  | wireReadHeader
  /-- frame `CMD_WRITE_DATA`, R88, R211 -/
  | wireWriteData (d : List Byte)
  /-- frame `CMD_READ_DATA`, R88, R212 -/
  | wireReadData (n : Nat)
  /-- frame `CMD_RUN`, R88, R206; `ms` is the caller's wait, which is not in the frame -/
  | wireRun (ms : Nat)
  /-- frame `CMD_INTERRUPT`, R88, R207; `ms` as for run -/
  | wireInterrupt (ms : Nat)
  /-- frame `CMD_RESET`, R88, R208 -/
  | wireReset
  /-- frame `CMD_WRITE_STATUS`, R88, R172; the body is the clamped code (R87 f) -/
  | wireWriteStatus (code : Code)
  /-- the 7-byte exchange `STATRD`, R84, R170 -/
  | wireReadStatus
  deriving DecidableEq, Repr

end Sys2Proof
end

