-- ==== Sys2Proof/WellFormed.lean ====
section
/-! DEFINITION. Operand typing (30_encoding R89, R90 b): an operation whose operand is outside the
type its row gives is `ILLEGAL_OP`. -/

namespace Sys2Proof

/-- An operand of a setter: a natural number below 2^32 (R121, R122). -/
def msFits (ms : Nat) : Bool := decide (ms < 2 ^ 32)

/-- A header operand: 8 bytes (R155, R209). -/
def headerFits (h : List Byte) : Bool := decide (h.length = Const.headerSize)

/-- The operand of DECODESTATUS: 4 bytes (R171). -/
def statusFits (s : List Byte) : Bool := decide (s.length = Const.statusLen)

/-- Data to write: 1..120 bytes (R211). -/
def dataFits (d : List Byte) : Bool := decide (1 ≤ d.length) && decide (d.length ≤ Const.maxBlock)

/-- A count of bytes to read: 0..120 (R212). -/
def countFits (n : Nat) : Bool := decide (n ≤ Const.maxBlock)

/-- `cmdbytes` of an exchange: 1..121 bytes (R200). -/
def cmdFits (c : List Byte) : Bool := decide (1 ≤ c.length) && decide (c.length ≤ 1 + Const.maxBlock)

/-- `rel` of an exchange: 2 or 3 bytes (R200). -/
def relFits (r : List Byte) : Bool := decide (r.length = 2) || decide (r.length = 3)

/-- Every operand is of the type its row gives. A payload of any length is well typed: FRAGINIT
itself refuses the empty and the oversized one, with `INVALID_PAYLOAD` (R150). Run-time codes are
never ill typed (R90 b). -/
def Instr.wf : Instr → Bool
  | .tomillis _ => true
  | .setbase ms => msFits ms
  | .setincr ms => msFits ms
  | .crc16 _ _ => true
  | .correction _ => true
  | .validate _ _ => true
  | .fraginit _ => true
  | .nextheader => true
  | .nextdata => true
  | .acceptblock header _ _ => headerFits header
  | .finish => true
  | .decodestatus bytes => statusFits bytes
  | .readstatus => true
  | .writestatus _ => true
  | .poll _ _ => true
  | .exchange cmdbytes rel _ _ => cmdFits cmdbytes && relFits rel
  | .run _ => true
  | .interrupt _ => true
  | .devreset => true
  | .writeheader h => headerFits h
  | .readheader => true
  | .writedata d => dataFits d
  | .readdata n => countFits n
  | .transfer _ _ => true
  | .porrecover => true
  | .wireWriteHeader h => headerFits h
  | .wireReadHeader => true
  | .wireWriteData d => dataFits d
  | .wireReadData n => countFits n
  | .wireRun _ => true
  | .wireInterrupt _ => true
  | .wireReset => true
  | .wireWriteStatus _ => true
  | .wireReadStatus => true

end Sys2Proof
end

