-- ==== Sys2Proof/Decode.lean ====
section
/-! DEFINITION. The decoder and the encoder. A host operation is one byte `op` beside the operand
ports (30_encoding R86, R89); a wire command is a frame (R81, R88) or the 7-byte status exchange
(R84); PORRECOVER has no code (R89). -/

namespace Sys2Proof

/-! ### Encoded operations -/

/-- The operand ports of the host port, one for each operand name of R89. A port may carry what is
outside its operand's type (R90 b): a byte string of any length, a direction that is neither SEND
nor RECEIVE (`none`), a number of any size (log 12). -/
structure Ports where
  code : Int
  ms : Nat
  seed : Half
  data : List Byte
  length : Int
  crc : Half
  payload : List Byte
  header : List Byte
  snap : Snapshot
  bytes : List Byte
  dir : Option Dir
  cmdbytes : List Byte
  rel : List Byte
  power : Bool
  h : List Byte
  d : List Byte
  n : Nat
  deriving DecidableEq, Repr

/-- Every operand word zero: numbers 0, and for a byte string the shortest one of zero bytes that
its operand's type allows (log 12). -/
def Ports.zero : Ports where
  code := 0
  ms := 0
  seed := 0
  data := []
  length := 0
  crc := 0
  payload := [0]
  header := List.replicate 8 0
  snap := ⟨0, 0, false, false, 0, false⟩
  bytes := List.replicate 4 0
  dir := some .send
  cmdbytes := [0]
  rel := [0, 0]
  power := false
  h := List.replicate 8 0
  d := [0]
  n := 0

/-- Format HOSTOP (R86): the operation byte, with the operands on their ports. -/
structure HostWord where
  op : Byte
  ports : Ports
  deriving DecidableEq, Repr

/-- An operation in its encoded form: at the host port; on the bus, with the wait of a power-mode
frame beside it (the wait is the caller's and is not in the frame, R203, R206); or with no code at
all (R183). -/
inductive Encoded
  | host (w : HostWord)
  | wire (tx : List Byte) (ms : Nat)
  | internal
  deriving DecidableEq, Repr

/-- Why a decoder refuses. -/
inductive DecodeError
  /-- `op[7:5]` is not 0 (R86, R90 a) -/
  | reservedBits
  /-- host code 0x00 or 0x19 to 0x1F (R90 a) -/
  | unusedCode
  /-- an operand outside the type its row gives (R90 b) -/
  | operandType
  /-- a byte string on the bus that is neither 7 bytes nor at least 12 (R81, R84) -/
  | frameLength
  /-- byte 0 is not `SELECT_CMD` (R82), or byte 0 of a status exchange not `CMD_READ_STATUS` -/
  | frameMarker
  /-- byte 9 is none of the eight framed commands (R88) -/
  | frameCommand
  /-- the body or the trailer is not what the command has (R88) -/
  | frameBody
  deriving DecidableEq, Repr

/-- A decoded operation, if its operands are of their types. -/
def checkTyped (i : Instr) : Except DecodeError Instr :=
  if i.wf then .ok i else .error .operandType

/-! ### The host port -/

/-- `op[7:5]`. -/
def opHigh (op : Byte) : BitVec 3 := op.extractLsb' 5 3

/-- `op[4:0]`, the operation number. -/
def opNumber (op : Byte) : Nat := (op.extractLsb' 0 5).toNat

/-- The row of R89 that an operation number selects, with its operands read off the ports. -/
def hostRow (number : Nat) (p : Ports) : Except DecodeError Instr :=
  match number with
  | 0x01 => checkTyped (.tomillis p.code)
  | 0x02 => checkTyped (.setbase p.ms)
  | 0x03 => checkTyped (.setincr p.ms)
  | 0x04 => checkTyped (.crc16 p.seed p.data)
  | 0x05 => checkTyped (.correction p.length)
  | 0x06 => checkTyped (.validate p.crc p.length)
  | 0x07 => checkTyped (.fraginit p.payload)
  | 0x08 => checkTyped .nextheader
  | 0x09 => checkTyped .nextdata
  | 0x0A => checkTyped (.acceptblock p.header p.data p.snap)
  | 0x0B => checkTyped .finish
  | 0x0C => checkTyped (.decodestatus p.bytes)
  | 0x0D => checkTyped .readstatus
  | 0x0E => checkTyped (.writestatus p.code)
  | 0x0F => match p.dir with
    | some dir => checkTyped (.poll dir p.code)
    | none => .error .operandType
  | 0x10 => checkTyped (.exchange p.cmdbytes p.rel p.power p.ms)
  | 0x11 => checkTyped (.run p.code)
  | 0x12 => checkTyped (.interrupt p.code)
  | 0x13 => checkTyped .devreset
  | 0x14 => checkTyped (.writeheader p.h)
  | 0x15 => checkTyped .readheader
  | 0x16 => checkTyped (.writedata p.d)
  | 0x17 => checkTyped (.readdata p.n)
  | 0x18 => checkTyped (.transfer p.payload p.code)
  | _ => .error .unusedCode

/-- The operation a host word selects (R86, R89, R90 a and b). Total: every byte and every setting
of the ports gives an operation or a named refusal. -/
def decodeHost (w : HostWord) : Except DecodeError Instr :=
  if opHigh w.op ≠ 0 then .error .reservedBits else hostRow (opNumber w.op) w.ports

/-! ### The bus -/

/-- The bytes of a release code. -/
def RelCode.bytes : RelCode → List Byte
  | .two a b => [a, b]
  | .three a b c => [a, b, c]

/-- The bytes of a 2-byte release code. -/
def RelPair.bytes (r : RelPair) : List Byte := [r.first, r.second]

/-- `FF×n` (R8): the payload that reads `n` bytes (R63). -/
def allOnes (n : Nat) : List Byte := List.replicate n 0xFF

/-- Format FRAME (R81): prefix (R82), command byte and body, release code. -/
def frameBytes (cfg : Cfg) (addr : Addr) (cmdbytes rel : List Byte) : List Byte :=
  cfg.selectCmd :: (addr.toList ++ (cmdbytes ++ rel))

/-- Format STATRD as sent (R84): the command byte and `FF×6`. -/
def statusFrame (cfg : Cfg) : List Byte := cfg.cmdReadStatus :: allOnes 6

/-- The body that stands before a given trailer, if the trailer is there. -/
def bodyBefore (rel rest : List Byte) : Option (List Byte) :=
  if rel.length ≤ rest.length ∧ rest.drop (rest.length - rel.length) = rel then
    some (rest.take (rest.length - rel.length))
  else none

/-- The wire command with a given command byte, body and trailer (R88). -/
def wireRow (cfg : Cfg) (cmd : Byte) (rest : List Byte) (ms : Nat) : Except DecodeError Instr :=
  if cmd = cfg.cmdWriteHeader then
    match bodyBefore cfg.relWriteHeader.bytes rest with
    | some b => checkTyped (.wireWriteHeader b)
    | none => .error .frameBody
  else if cmd = cfg.cmdReadHeader then
    if bodyBefore cfg.relReadHeader.bytes rest = some (allOnes 8) then .ok .wireReadHeader
    else .error .frameBody
  else if cmd = cfg.cmdWriteData then
    match bodyBefore cfg.relWriteData.bytes rest with
    | some b => checkTyped (.wireWriteData b)
    | none => .error .frameBody
  else if cmd = cfg.cmdReadData then
    match bodyBefore cfg.relReadData.bytes rest with
    | some b => if b = allOnes b.length then checkTyped (.wireReadData b.length) else .error .frameBody
    | none => .error .frameBody
  else if cmd = cfg.cmdRun then
    if rest = cfg.relRun.bytes then .ok (.wireRun ms) else .error .frameBody
  else if cmd = cfg.cmdInterrupt then
    if rest = cfg.relInterrupt.bytes then .ok (.wireInterrupt ms) else .error .frameBody
  else if cmd = cfg.cmdReset then
    if rest = cfg.relReset.bytes then .ok .wireReset else .error .frameBody
  else if cmd = cfg.cmdWriteStatus then
    match bodyBefore cfg.relWriteStatus.bytes rest with
    | some [c] =>
      if h : c.toNat < 16 then .ok (.wireWriteStatus ⟨c.toNat, h⟩) else .error .frameBody
    | _ => .error .frameBody
  else .error .frameCommand

/-- The wire command a byte string on the bus is (R81, R84, R88). The match of a frame is on byte 9;
a 7-byte string can only be the status exchange, whose match is on byte 0 (R91). -/
def decodeWire (cfg : Cfg) (tx : List Byte) (ms : Nat) : Except DecodeError Instr :=
  if tx.length = 7 then
    if tx = statusFrame cfg then .ok .wireReadStatus else .error .frameMarker
  else if tx.length < 12 then .error .frameLength
  else if tx.head? ≠ some cfg.selectCmd then .error .frameMarker
  else wireRow cfg (tx.getD 9 0) (tx.drop 10) ms

/-- The decoder: total, rejecting by name. -/
def decode (cfg : Cfg) : Encoded → Except DecodeError Instr
  | .host w => decodeHost w
  | .wire tx ms => decodeWire cfg tx ms
  | .internal => .ok .porrecover

/-! ### The encoder -/

/-- The host word of an operation: its code of R89 and its operands on their ports; none for the
operations that have no host code. -/
def hostWord : Instr → Option HostWord
  | .tomillis code => some ⟨0x01, { Ports.zero with code := code }⟩
  | .setbase ms => some ⟨0x02, { Ports.zero with ms := ms }⟩
  | .setincr ms => some ⟨0x03, { Ports.zero with ms := ms }⟩
  | .crc16 seed data => some ⟨0x04, { Ports.zero with seed := seed, data := data }⟩
  | .correction length => some ⟨0x05, { Ports.zero with length := length }⟩
  | .validate crc length => some ⟨0x06, { Ports.zero with crc := crc, length := length }⟩
  | .fraginit payload => some ⟨0x07, { Ports.zero with payload := payload }⟩
  | .nextheader => some ⟨0x08, Ports.zero⟩
  | .nextdata => some ⟨0x09, Ports.zero⟩
  | .acceptblock header data snap =>
    some ⟨0x0A, { Ports.zero with header := header, data := data, snap := snap }⟩
  | .finish => some ⟨0x0B, Ports.zero⟩
  | .decodestatus bytes => some ⟨0x0C, { Ports.zero with bytes := bytes }⟩
  | .readstatus => some ⟨0x0D, Ports.zero⟩
  | .writestatus code => some ⟨0x0E, { Ports.zero with code := code }⟩
  | .poll dir code => some ⟨0x0F, { Ports.zero with dir := some dir, code := code }⟩
  | .exchange cmdbytes rel power ms =>
    some ⟨0x10, { Ports.zero with cmdbytes := cmdbytes, rel := rel, power := power, ms := ms }⟩
  | .run code => some ⟨0x11, { Ports.zero with code := code }⟩
  | .interrupt code => some ⟨0x12, { Ports.zero with code := code }⟩
  | .devreset => some ⟨0x13, Ports.zero⟩
  | .writeheader h => some ⟨0x14, { Ports.zero with h := h }⟩
  | .readheader => some ⟨0x15, Ports.zero⟩
  | .writedata d => some ⟨0x16, { Ports.zero with d := d }⟩
  | .readdata n => some ⟨0x17, { Ports.zero with n := n }⟩
  | .transfer payload code => some ⟨0x18, { Ports.zero with payload := payload, code := code }⟩
  | .porrecover => none
  | .wireWriteHeader _ => none
  | .wireReadHeader => none
  | .wireWriteData _ => none
  | .wireReadData _ => none
  | .wireRun _ => none
  | .wireInterrupt _ => none
  | .wireReset => none
  | .wireWriteStatus _ => none
  | .wireReadStatus => none

/-- The code byte of a write-status frame, `zext_8` of the code (R87 f). -/
def codeByte (c : Code) : Byte := BitVec.ofNat 8 c.val

/-- What a wire command puts on the bus (R88), to the device with the given address. -/
def wireBytes (cfg : Cfg) (addr : Addr) : Instr → Option (List Byte × Nat)
  | .wireWriteHeader h =>
    some (frameBytes cfg addr (cfg.cmdWriteHeader :: h) cfg.relWriteHeader.bytes, 0)
  | .wireReadHeader =>
    some (frameBytes cfg addr (cfg.cmdReadHeader :: allOnes 8) cfg.relReadHeader.bytes, 0)
  | .wireWriteData d =>
    some (frameBytes cfg addr (cfg.cmdWriteData :: d) cfg.relWriteData.bytes, 0)
  | .wireReadData n =>
    some (frameBytes cfg addr (cfg.cmdReadData :: allOnes n) cfg.relReadData.bytes, 0)
  | .wireRun ms => some (frameBytes cfg addr [cfg.cmdRun] cfg.relRun.bytes, ms)
  | .wireInterrupt ms => some (frameBytes cfg addr [cfg.cmdInterrupt] cfg.relInterrupt.bytes, ms)
  | .wireReset => some (frameBytes cfg addr [cfg.cmdReset] cfg.relReset.bytes, 0)
  | .wireWriteStatus code =>
    some (frameBytes cfg addr [cfg.cmdWriteStatus, codeByte code] cfg.relWriteStatus.bytes, 0)
  | .wireReadStatus => some (statusFrame cfg, 0)
  | _ => none

/-- The encoder: the words of an operation, from the tables of R88 and R89. -/
def encode (cfg : Cfg) (addr : Addr) (i : Instr) : Encoded :=
  match hostWord i with
  | some w => .host w
  | none => match wireBytes cfg addr i with
    | some (tx, ms) => .wire tx ms
    | none => .internal

/-! ### Table words -/

/-- The host word of a table word: the operation byte is bits 7:0 (HOSTOP is fixed at one byte,
R91), every operand word is zero. -/
def tableHostWord (nbits w : Nat) : HostWord := ⟨BitVec.ofNat 8 (w % 2 ^ nbits), Ports.zero⟩

/-- The operation the decoder reads from a word of the opcode table. -/
def decodeTableWord (nbits w : Nat) : Option Instr :=
  match decodeHost (tableHostWord nbits w) with
  | .ok i => some i
  | .error _ => none

end Sys2Proof
end

