-- ==== Sys2Proof/Machine/Operands.lean ====
section
/-! DEFINITION. Operand forms (00_scope R8, 30_encoding R87): clamped and saturating run-time codes,
the little- and big-endian split of 16-bit values, slices of byte strings, and the parts of a bus
reply (R94). -/

namespace Sys2Proof.Machine

/-- `sat15(c) = min(c, 15)` (R8). -/
def sat15 (n : Nat) : Code := ⟨min n 15, Nat.lt_succ_of_le (Nat.min_le_right n 15)⟩

/-- `clamp15(c) = max(0, min(15, c))` (R8, R87 e): negative codes clamp to 0. -/
def clamp15 (c : Int) : Code := sat15 c.toNat

/-- `le16(v) = [v[7:0], v[15:8]]` (R8, R87 c). -/
def le16 (v : Half) : List Byte := [v.extractLsb' 0 8, v.extractLsb' 8 8]

/-- `be16(v) = [v[15:8], v[7:0]]` (R8). -/
def be16 (v : Half) : List Byte := [v.extractLsb' 8 8, v.extractLsb' 0 8]

/-- `n` bytes from byte `i` (R8), fewer where the string ends before. -/
def slice (s : List Byte) (i n : Nat) : List Byte := (s.drop i).take n

/-- Byte `i` of a byte string (R8); 0 where there is none, which no rule reads (log 24). -/
def byteAt (s : List Byte) (i : Nat) : Byte := s.getD i 0

/-- Bytes `i` to the end (R8). -/
def bytesFrom (s : List Byte) (i : Nat) : List Byte := s.drop i

/-- The command reply of a framed exchange: the bytes under `cmdbytes` (R94). -/
def commandReply (rx : List Byte) (cmdLen : Nat) : List Byte := slice rx Const.prefixLen cmdLen

/-- The release reply: the bytes under the release code (R94). -/
def releaseReply (rx : List Byte) (cmdLen : Nat) : List Byte := bytesFrom rx (Const.prefixLen + cmdLen)

/-- The `n` bytes that answered the body of a read (R210, R212): bytes 1..n of the command reply. -/
def bodyReply (creply : List Byte) (n : Nat) : List Byte := slice creply 1 n

/-- `c * T_INCR + T_BASE` in naturals, without wrap (R120). -/
def millis (base incr : BitVec 32) (c : Code) : Nat := c.val * incr.toNat + base.toNat

end Sys2Proof.Machine
end

