-- ==== Sys2Proof/Machine/Crc.lean ====
section
/-! DEFINITION. The CRC, the good residual, the correction table and its use (41_crc_compensator
R130 to R134), and the running checksum (42_fragmenter R154): functions of the configuration and
their arguments, no state. -/

namespace Sys2Proof.Machine

/-- One shift of the CRC register, reflected constant 0xA001 (R130). -/
def crcShift (c : Half) : Half := if c.getLsbD 0 then (c >>> 1) ^^^ 0xA001 else c >>> 1

/-- `n` shifts. -/
def crcShifts : Nat → Half → Half
  | 0, c => c
  | n + 1, c => crcShifts n (crcShift c)

/-- One byte into the CRC register: exclusive or into the low byte, then eight shifts (R130). -/
def crcByte (c : Half) (b : Byte) : Half := crcShifts 8 (c ^^^ b.setWidth 16)

/-- The default `CRC16` (R130): preset to the seed, no final exclusive or. -/
def crcOneWire (seed : Half) (data : List Byte) : Half := data.foldl crcByte seed

/-- `CRC16(seed, data)` of a configuration (R7, R130). -/
def crc16 (cfg : Cfg) (seed : Half) (data : List Byte) : Half :=
  match cfg.crcFn with
  | .oneWire => crcOneWire seed data
  | .other => Config.crcOther seed data

/-- `GOOD_RESIDUAL = CRC16(0, le16(CRC_FIELD_XOR))`: derived, not a parameter (R131). -/
def goodResidual (cfg : Cfg) : Half := crc16 cfg 0 (le16 cfg.crcFieldXor)

/-- The field that carries a CRC: the CRC exclusive-ored with `CRC_FIELD_XOR` (R131). -/
def crcField (cfg : Cfg) (crc : Half) : Half := crc ^^^ cfg.crcFieldXor

/-- `feed(v)` of R132: the bytes of an entry that make the next one. -/
def tableFeedBytes (cfg : Cfg) (v : Half) : List Byte :=
  match cfg.tableFeed with
  | .le16 => le16 v
  | .be16 => be16 v
  | .low8 => [v.extractLsb' 0 8]

/-- An entry of the table and the `n` after it (R132). -/
def tableFrom (cfg : Cfg) : Nat → Half → List Half
  | 0, v => [v]
  | n + 1, v => v :: tableFrom cfg n (crc16 cfg 0 (tableFeedBytes cfg v))

/-- The correction table `CORR[0..138]` (R132): `CORR[0] = CRC16(0, [0x01])`, each entry the CRC of
the one before. -/
def corrTable (cfg : Cfg) : List Half := tableFrom cfg (Const.tableLen - 1) (crc16 cfg 0 [0x01])

/-- `Correction(length)` (R133): 0 outside 1..139, else `CORR[length - 1]`. -/
def correction (corr : List Half) (length : Int) : Half :=
  if length < 1 ∨ length > Const.tableLen then 0 else corr.getD (length.toNat - 1) 0

/-- Whether `Validate(crc, length)` accepts (R134): the plain residual, or the residual after the
correction for this length. -/
def accepts (cfg : Cfg) (corr : List Half) (crc : Half) (length : Int) : Bool :=
  crc == goodResidual cfg || (crc ^^^ correction corr length) == goodResidual cfg

/-- The block CRC (R153): over the length byte and the data. -/
def blockCrc (cfg : Cfg) (blen : Byte) (data : List Byte) : Half :=
  crc16 cfg cfg.blockCrcSeed (blen :: data)

/-- The 16-bit sum of bytes added to a checksum (R154). -/
def byteSum (chk : Half) (data : List Byte) : Half :=
  data.foldl (fun c b => c + b.setWidth 16) chk

/-- `CHK_UPDATE` of a configuration (R154). -/
def chkUpdate (cfg : Cfg) (chk : Half) (data : List Byte) : Half :=
  match cfg.chkFn with
  | .byteSum => byteSum chk data
  | .other => Config.chkOther chk data

end Sys2Proof.Machine
end

