-- ==== Sys2Proof/Machine/State.lean ====
section
/-! DEFINITION. The state of the block (10_state R20 to R35), what passes over its ports
(20_memory R62, 30_encoding R86), its errors (60_exceptions R251), its phases (R27, R184, R237), and
the state after block reset (R35, R290). -/

namespace Sys2Proof.Machine

/-! ### The collaborator interface (R62) -/

/-- Bus speeds (R62). -/
inductive Speed
  | regular | overdrive
  deriving DecidableEq, Repr

/-- Power modes of `SetPowerDuration` (R62). -/
inductive PowerMode
  | smart | infinite
  deriving DecidableEq, Repr

/-- Triggers of `StartPowerDelivery` (R62). -/
inductive PowerTrigger
  | afterBit
  deriving DecidableEq, Repr

/-- Warnings (R201, R263). -/
inductive Warning
  | firstByte
  deriving DecidableEq, Repr

/-- One event of the trace (R62): a collaborator call with the answer the environment returned, a
sleep or a warning. `dataBlock tx none` is the answer FAIL. -/
inductive Event
  | busReset
  | selectDevice (addr : Addr) (ok : Bool)
  | dataBlock (tx : List Byte) (rx : Option (List Byte))
  | getBit (b : Bool)
  | setPowerDuration (m : PowerMode)
  | startPowerDelivery (t : PowerTrigger)
  | setPowerNormal
  | canDeliverSmartPower (b : Bool)
  | speedGet (s : Speed)
  | speedSet (s : Speed)
  | renegotiateSpeed
  | sleep (ms : Nat)
  | warn (w : Warning)
  deriving DecidableEq, Repr

/-- What the environment may supply as the answer of the call being made (R62): an answer of one of
the five calls that have one, or a failure. -/
inductive Answer
  | selected (ok : Bool)
  | block (rx : List Byte)
  | bit (b : Bool)
  | smart (b : Bool)
  | speed (s : Speed)
  | fail
  deriving DecidableEq, Repr

/-! ### Errors and results (R33, R251) -/

/-- The error names of R251. -/
inductive ErrCode
  | illegalOp | range | invalidPayload | order | wrongSpeed
  | notSelectable | porUncorrected | unrecoverable
  | crc | noRoom | noHeader | badHeader | notUnderstood | comm
  deriving DecidableEq, Repr

/-- The `info` of an error (R251). -/
inductive Info
  | none | base | increment | block | status
  deriving DecidableEq, Repr

/-- An error: code and info (R250, R251). -/
structure Error where
  code : ErrCode
  info : Info
  deriving DecidableEq, Repr

/-- The value of a successful operation (the `Ok` column of R89). -/
inductive Value
  | none
  | ms (n : Nat)
  | half (v : Half)
  | bytes (b : List Byte)
  | complete (b : Bool)
  | snapshot (s : Snapshot)
  | replies (command release : List Byte)
  deriving DecidableEq, Repr

/-- The result of an operation (R33). -/
inductive Result
  | ok (v : Value)
  | err (e : Error)
  deriving DecidableEq, Repr

/-! ### The phase register (R27, R184, R237)

The block rests only where it waits for an answer; what lies between two such places is internal
(R9). A resting phase names the call being made and the operation it belongs to; the nesting is
fixed (R255 b), so the callers are enumerations and there is no stack. -/

/-- Who called `PollUntilReady`: the host (POLL), or the send or the receive loop of Transfer. -/
inductive PollCaller
  | host | sendLoop | receiveLoop
  deriving DecidableEq, Repr

/-- Who reads the status: the host (READSTATUS), a poll (phase `P_READ`), or the wire command
WIRE_READ_STATUS run on its own. -/
inductive StatusCaller
  | host | wire
  | poll (c : PollCaller)
  deriving DecidableEq, Repr

/-- Who called `PorRecover`: a poll (arm 2), or PORRECOVER run on its own. -/
inductive PorCaller
  | alone
  | poll (c : PollCaller)
  deriving DecidableEq, Repr

/-- What a host-issued framed operation gives as its `Ok` value (R89, R94). -/
inductive ReplyUse
  | none | replies | header
  | data (n : Nat)
  deriving DecidableEq, Repr

/-- Who called `Exchange`. The `t…` places are the phases `T_S_HDR` to `T_R_RUN` of R237; the `poll…`
and `por…` places are the calls of `P_ACT` (R184) and of PorRecover (R183). -/
inductive ExchCaller
  | host (use : ReplyUse)
  | wire
  | pollWrite (c : PollCaller)
  | pollRun (c : PollCaller)
  | pollBump (c : PollCaller)
  | porWrite (p : PorCaller)
  | porRun (p : PorCaller)
  | tSHdr | tSData | tSWs | tSRun | tRHdr
  | tRData (h : List Byte)
  | tRWs | tRRun
  deriving DecidableEq, Repr

/-- `PHASE` (R27). `tSpeed` is the `SpeedGet` of Transfer (`T_SPEED`), with the code operand it will
load; `select`, `selectAgain` and `statusBlock` are the calls of ReadStatus (R170); `block`,
`blockRetry`, `smart`, `powerBit` and `bit` those of Exchange (R200). -/
inductive Phase
  | idle
  | tSpeed (code : Int)
  | select (c : StatusCaller)
  | selectAgain (c : StatusCaller)
  | statusBlock (c : StatusCaller)
  | block (k : ExchCaller)
  | blockRetry (k : ExchCaller)
  | smart (k : ExchCaller)
  | powerBit (k : ExchCaller)
  | bit (k : ExchCaller)
  deriving DecidableEq, Repr

/-- Whose operation is under way: the host's, a Transfer, or a caller that already holds `LOCK`
(PORRECOVER or a wire command run on its own, R89; log 15). -/
inductive Owner
  | host | transfer | caller
  deriving DecidableEq, Repr

/-! ### Requests on the host port -/

/-- A request of the host: an operation (R86), or block reset, which makes the instance with the
address given (R24, R290, D38; log 17). -/
inductive Request
  | op (w : HostWord)
  | reset (addr : Addr)
  deriving DecidableEq, Repr

/-! ### State -/

/-- Everything the spec gives the block, and its ports. INVENTORY.md lists each field with its rule
and reset value. -/
structure State where
  /-- the configuration (R7), fixed -/
  cfg : Cfg
  /-- `T_BASE` (R21) -/
  tBase : BitVec 32
  /-- `T_INCR` (R21) -/
  tIncr : BitVec 32
  /-- `CORR[0..138]` (R23) -/
  corr : List Half
  /-- `MIN_READ_RT` (R22) -/
  minReadRt : Code
  /-- `ADDR` (R24) -/
  addr : Addr
  /-- `LOCK` (R31) -/
  lock : Bool
  /-- `SEL0` (R30) -/
  sel0 : Byte
  /-- `PAY` (R25) -/
  pay : List Byte
  /-- `PLEN` (R25) -/
  plen : Nat
  /-- `CURSOR` (R25) -/
  cursor : Nat
  /-- `SEQ` (R25) -/
  seq : BitVec 7
  /-- `CHK` (R25) -/
  chk : Half
  /-- `MORE` (R25, R29) -/
  more : Bool
  /-- `CUR_OFF` (R25) -/
  curOff : Nat
  /-- `CUR_LEN` (R25) -/
  curLen : Nat
  /-- `ACC` (R25) -/
  acc : List Byte
  /-- `FRAG_VALID` (R25, R29) -/
  fragValid : Bool
  /-- `RT` (R26) -/
  rt : Code
  /-- `ATTEMPT` (R26) -/
  attempt : Nat
  /-- `IN_RECEIVE` (R26) -/
  inReceive : Bool
  /-- `POR_ARMED` (R26) -/
  porArmed : Bool
  /-- `POR_ADJUST` (R26) -/
  porAdjust : Nat
  /-- `LAST_ERR` (R26) -/
  lastErr : Option Error
  /-- `POLL_DIR` (R28) -/
  pollDir : Dir
  /-- `POLL_RT` (R28) -/
  pollRt : Code
  /-- `POLL_ITER` (R28) -/
  pollIter : Nat
  /-- `SNAP` (R28, R32) -/
  snap : Snapshot
  /-- `PHASE` (R27) -/
  phase : Phase
  /-- the payload operand of the Transfer under way, fixed at issue (R72, R232, R307) -/
  opPayload : List Byte
  /-- frame scratch: `cmdbytes` of the exchange under way (R60, R200) -/
  xCmd : List Byte
  /-- frame scratch: its release code -/
  xRel : List Byte
  /-- whether it is in power mode -/
  xPower : Bool
  /-- its wait, used in power mode -/
  xMs : Nat
  /-- frame scratch as the bus reply refreshed it (R94, R205) -/
  xReply : List Byte
  /-- status scratch (R60, R84) -/
  statusScratch : List Byte
  /-- the result of the operation that ended last (R33) -/
  result : Option Result
  /-- the events made so far, oldest first (R9, R33, R69) -/
  trace : List Event
  /-- input: requests on the host port not yet taken, oldest first (R10; log 11) -/
  host : List Request
  /-- input: answers of the environment not yet used, oldest first (R10; log 7) -/
  answers : List Answer
  deriving DecidableEq, Repr

/-! ### Stops -/

/-- Why the machine stops with a fault. -/
inductive Fault
  /-- The environment supplied something that is not an answer of the call being made: an answer of
  another call, or a reply whose length is not that of the bytes sent (R62, R63). Raised by the
  taking of an answer (`feed`); safe: no environment of R62 does it (log 10). -/
  | wrongAnswer
  /-- PORRECOVER or a wire command, which have no host code and so cannot be held at the host port,
  was started on its own while an operation is at a call (R183, R262). Raised by their meanings only,
  never by `step`; safe (log 15). -/
  | sequencerBusy
  deriving DecidableEq, Repr

/-- Why the machine has no meaning for what it is asked. -/
inductive Refusal
  /-- Raised by `exec` for an instruction that has no meaning yet; safe. -/
  | notModelled (mnemonic : String)
  /-- A failure answer to a call for which the spec gives none: "the model has no move for it"
  (R73, U5). Raised by the taking of an answer (`feed`); safe (log 10). -/
  | callFailed
  /-- Block reset while an operation runs: "a model takes reset only in PHASE = IDLE" (R290, U7).
  Raised by `step`; safe (log 17). -/
  | resetInOperation
  deriving DecidableEq, Repr

/-- The outcome of an operation or a step. -/
abbrev Outcome := Host.Outcome State Fault Refusal

/-! ### Reset -/

/-- The state after block reset of an instance with a given configuration and address (R35, R290).
The rows of R35 in order; the rest is named in logs 4 to 6. -/
def State.initial (cfg : Cfg) (addr : Addr) : State where
  cfg := cfg
  tBase := cfg.baseReset
  tIncr := cfg.incrReset
  corr := corrTable cfg
  minReadRt := cfg.minReadRtReset
  addr := addr
  lock := false
  sel0 := cfg.selectCmd
  pay := []
  plen := 0
  cursor := 0
  seq := 0
  chk := 0
  more := false
  curOff := 0
  curLen := 0
  acc := []
  fragValid := false
  rt := 0
  attempt := 0
  inReceive := false
  porArmed := false
  porAdjust := 0
  lastErr := none
  pollDir := .send
  pollRt := 0
  pollIter := 0
  snap := ⟨0, 0, false, false, 0, false⟩
  phase := .idle
  opPayload := []
  xCmd := []
  xRel := []
  xPower := false
  xMs := 0
  xReply := []
  statusScratch := []
  result := none
  trace := []
  host := []
  answers := []

/-- The machine right after reset: idle, waiting for the host's first operation (R35). -/
def State.reset : State := State.initial Config.cfg Config.addr

end Sys2Proof.Machine
end

