-- ==== Sys2Proof/Machine/Flags.lean ====
section
/-! DEFINITION. The one-bit state (10_state R29) and the tests that read it: the flags of a status
snapshot (R32, R171), the final marker and `MORE` (R151), the classes of errors (R251, R252), and the
choice of poll arm (43_status_poll R173, R184). No arithmetic sets a flag as a side effect. -/

namespace Sys2Proof.Machine

/-- `DecodeStatus(s)` (R171): the snapshot of the four status bytes. Bit 7 of byte 2 and bits 7:1 of
byte 3 do not reach it (R90 c); the don't-care mask is taken off `free` (R90 d). -/
def decodeStatus (cfg : Cfg) (s : List Byte) : Snapshot where
  free := byteAt s 0 &&& ~~~cfg.freeDontcareMask
  used := byteAt s 1
  por := (byteAt s 2 &&& Const.porBit) != 0
  cnc := (byteAt s 2 &&& Const.cncBit) != 0
  sub := (byteAt s 2).extractLsb' 0 5
  busy := (byteAt s 3 &&& Const.cpBusyBit) != 0

/-- "Sets the final-block bit when remaining == blockLength" (R151). -/
def isFinal (rem blen : Nat) : Bool := rem == blen

/-- Header byte 0 (R87 a): the sequence number, the final bit or-ed in on the last block only. -/
def headerByte0 (seq : BitVec 7) (final : Bool) : Byte :=
  seq.setWidth 8 ||| (if final then Const.finalBit else 0)

/-- The numeric code of an error (R251). -/
def ErrCode.number : ErrCode → Byte
  | .illegalOp => 0x01
  | .range => 0x02
  | .invalidPayload => 0x03
  | .order => 0x04
  | .wrongSpeed => 0x05
  | .notSelectable => 0x10
  | .porUncorrected => 0x11
  | .unrecoverable => 0x12
  | .crc => 0x20
  | .noRoom => 0x21
  | .noHeader => 0x22
  | .badHeader => 0x23
  | .notUnderstood => 0x24
  | .comm => 0x25

/-- The class of an error: `code[7:4]` (R251). -/
inductive ErrClass
  | caller | fatal | recoverable
  deriving DecidableEq, Repr

/-- The class column of R251. -/
def ErrCode.cls : ErrCode → ErrClass
  | .illegalOp | .range | .invalidPayload | .order | .wrongSpeed => .caller
  | .notSelectable | .porUncorrected | .unrecoverable => .fatal
  | .crc | .noRoom | .noHeader | .badHeader | .notUnderstood | .comm => .recoverable

/-- An error that records nothing. -/
def ErrCode.plain (c : ErrCode) : Error := ⟨c, .none⟩

/-- Step 6 returns the error at once: "if e is fatal or e = INVALID_PAYLOAD" (R230, R236 a). -/
def endsTransfer (e : ErrCode) : Bool := e.cls == .fatal || e == .invalidPayload

/-- What the poll loop does with a snapshot: the rows of the table of R184. -/
inductive Arm
  | porRecover
  | busy
  | firstBirthday
  | masterErase
  | commandNotComplete
  | responseIncomplete
  | vmIncomplete
  | succeed
  | fail (e : ErrCode)
  deriving DecidableEq, Repr

/-- The arm a snapshot takes (R173 arms 2 to 8, R184): the first test that holds, in the order that
is normative (R254). -/
def pollArm (cfg : Cfg) (dir : Dir) (armed : Bool) (s : Snapshot) : Arm :=
  if s.por then (if armed then .porRecover else .fail .porUncorrected)
  else if s.busy then .busy
  else if s.sub = cfg.scFirstBirthday then .firstBirthday
  else if s.sub = cfg.scMasterErase then .masterErase
  else if s.cnc then .commandNotComplete
  else if s.sub = cfg.scResponseIncomplete then .responseIncomplete
  else if s.sub = cfg.scVmIncomplete ∧ s.used = 0 then .vmIncomplete
  else match dir with
    | .send => if s.free.toNat ≥ Const.headerSize then .succeed else .fail .noRoom
    | .receive =>
      if s.used.toNat = Const.headerSize then .succeed
      else if s.used = 0 then .fail .noHeader
      else .fail .badHeader

/-- The poll's run-time code after an arm (R176 to R180, the column "new rt" of R184). -/
def armCode (rt : Code) : Arm → Code
  | .busy => sat15 (rt.val + Const.busyBump)
  | .firstBirthday => Const.fbOptimum
  | .masterErase => sat15 (rt.val + 1)
  | .commandNotComplete => if rt = 0 then Const.cncFirst else sat15 (2 * rt.val)
  | .porRecover | .responseIncomplete | .vmIncomplete | .succeed | .fail _ => rt

end Sys2Proof.Machine
end

