-- ==== Sys2Proof/Machine/Ops.lean ====
section
/-! DEFINITION. The named operations over the registers: events, the fragmenter's registers
(42_fragmenter), the end of an operation, the start of each collaborator call (43, 44), RAISING AN
ERROR (60_exceptions R250) with step 6 of Transfer (45_transfer R236), what happens when a call is
answered, and the issue of an operation (20_memory R71, 30_encoding R90).

Everything the block does between two answered calls is one straight line of these functions; none
of them is recursive. `drive` takes the answers one by one. -/

namespace Sys2Proof.Machine

/-! ### Events, results, the end of an operation -/

/-- Events appended to the trace, in order (R9, R69). -/
def emit (es : List Event) (s : State) : State := { s with trace := s.trace ++ es }

/-- `ToMillis(code)` with the tunables as they are now (R120, R21). -/
def toMillis (s : State) (c : Code) : Nat := millis s.tBase s.tIncr c

/-- The result of an operation that touches nothing else. -/
def giveResult (r : Result) (s : State) : State := { s with result := some r }

/-- `LOCK` after the end of an operation: released if the operation took it (R31, R250). -/
def lockAfter (o : Owner) (lock : Bool) : Bool :=
  match o with
  | .host | .transfer => false
  | .caller => lock

/-- The end of an operation, normal or by error (R250): `LOCK` released, `PHASE <- IDLE`, the result
given. -/
def endOp (o : Owner) (r : Result) (s : State) : State :=
  { s with result := some r, phase := .idle, lock := lockAfter o s.lock }

/-! ### The fragmenter's registers (R150 to R156) -/

/-- `FragInit(payload)` (R150): the new registers, or only `FRAG_VALID <- false` and the error. -/
def fragInit (payload : List Byte) (s : State) : State × Option Error :=
  if payload.length = 0 ∨ payload.length > Const.maxPayload then
    ({ s with fragValid := false }, some ErrCode.invalidPayload.plain)
  else
    ({ s with pay := payload, plen := payload.length, cursor := 0, seq := 0, chk := 0,
              more := true, curOff := 0, curLen := 0, acc := [], fragValid := true }, none)

/-- `rem` and `blen` of the next block (R151, R87 b). -/
def nextRem (s : State) : Nat := s.plen - s.cursor

/-- `min(remaining, 120)` (R151). -/
def nextLen (s : State) : Nat := min (nextRem s) Const.maxBlock

/-- The payload bytes of the next block (R151). -/
def nextBytes (s : State) : List Byte := slice s.pay s.cursor (nextLen s)

/-- The header of the next block (R83, R151): sequence and final bit, length, remaining length, CRC
field, checksum after this block; 16-bit fields low byte first. -/
def nextHeaderBytes (s : State) : List Byte :=
  let blen : Byte := BitVec.ofNat 8 (nextLen s)
  [headerByte0 s.seq (isFinal (nextRem s) (nextLen s)), blen]
    ++ le16 (BitVec.ofNat 16 (nextRem s))
    ++ le16 (crcField s.cfg (blockCrc s.cfg blen (nextBytes s)))
    ++ le16 (chkUpdate s.cfg s.chk (nextBytes s))

/-- `NextHeader()` (R151): the header and the registers after it. -/
def nextHeader (s : State) : Except Error (List Byte × State) :=
  if !s.fragValid || !s.more then .error ErrCode.order.plain
  else .ok (nextHeaderBytes s,
    { s with chk := chkUpdate s.cfg s.chk (nextBytes s), seq := s.seq + 1,
             curOff := s.cursor, curLen := nextLen s, cursor := s.cursor + nextLen s,
             more := !isFinal (nextRem s) (nextLen s) })

/-- `NextData()` (R152): the slice the latest `NextHeader` described. -/
def nextData (s : State) : Except Error (List Byte) :=
  if !s.fragValid || s.curLen == 0 then .error ErrCode.order.plain
  else .ok (slice s.pay s.curOff s.curLen)

/-- The residual of an inbound block (R155): the CRC over the length byte, the data and the two field
bytes of the header. -/
def blockResidual (cfg : Cfg) (header data : List Byte) : Half :=
  crc16 cfg cfg.blockCrcSeed (byteAt header 1 :: data ++ [byteAt header 4, byteAt header 5])

/-- `AcceptBlock(header, data, snap)` (R155): whether the reply is complete, and `ACC` with the data
less its three reserved bytes. -/
def acceptBlock (header data : List Byte) (snap : Snapshot) (s : State) :
    Except Error (Bool × State) :=
  if !s.fragValid || data.length != (byteAt header 1).toNat then .error ErrCode.order.plain
  else if accepts s.cfg s.corr (blockResidual s.cfg header data) (byteAt header 1).toNat then
    .ok (snap.sub == s.cfg.scCommandComplete,
      { s with acc := s.acc ++ bytesFrom data Const.reservedRx })
  else .error ⟨.crc, .block⟩

/-- `Finish()` (R156). -/
def finish (s : State) : Except Error (List Byte) :=
  if !s.fragValid then .error ErrCode.order.plain else .ok s.acc

/-! ### Starting a framed exchange (R200, R201) -/

/-- The frame of the exchange under way (R81, R200): `SELECT_CMD` whatever the scratch held. -/
def frameOut (s : State) : List Byte := frameBytes s.cfg s.addr s.xCmd s.xRel

/-- The warning of R201, if the scratch's first byte was not `SELECT_CMD`. -/
def firstByteWarning (s : State) : List Event :=
  if s.sel0 != s.cfg.selectCmd then [.warn .firstByte] else []

/-- `Exchange(cmdbytes, rel, power, ms)` up to its `DataBlock` (R200). -/
def startExchange (cmdbytes rel : List Byte) (power : Bool) (ms : Nat) (k : ExchCaller)
    (s : State) : State :=
  { emit (firstByteWarning s) s with
    xCmd := cmdbytes, xRel := rel, xPower := power, xMs := ms, phase := .block k }

/-- `WriteStatus(c)` (R172). -/
def startWriteStatus (c : Code) (k : ExchCaller) (s : State) : State :=
  startExchange [s.cfg.cmdWriteStatus, codeByte c] s.cfg.relWriteStatus.bytes s.cfg.pwrWriteStatus 0
    k s

/-- `Run(c)` (R206): power mode, the wait sized now. -/
def startRun (c : Code) (k : ExchCaller) (s : State) : State :=
  startExchange [s.cfg.cmdRun] s.cfg.relRun.bytes true (toMillis s c) k s

/-- `Interrupt(c)` (R207). -/
def startInterrupt (c : Code) (k : ExchCaller) (s : State) : State :=
  startExchange [s.cfg.cmdInterrupt] s.cfg.relInterrupt.bytes true (toMillis s c) k s

/-- `DevReset()` (R208). -/
def startDevReset (k : ExchCaller) (s : State) : State :=
  startExchange [s.cfg.cmdReset] s.cfg.relReset.bytes false 0 k s

/-- `WriteHeader(h)` (R209). -/
def startWriteHeader (h : List Byte) (k : ExchCaller) (s : State) : State :=
  startExchange (s.cfg.cmdWriteHeader :: h) s.cfg.relWriteHeader.bytes s.cfg.pwrWriteHeader 0 k s

/-- `ReadHeader()` (R210): an all-ones command payload. -/
def startReadHeader (k : ExchCaller) (s : State) : State :=
  startExchange (s.cfg.cmdReadHeader :: allOnes Const.headerSize) s.cfg.relReadHeader.bytes
    s.cfg.pwrReadHeader 0 k s

/-- `WriteData(d)` (R211). -/
def startWriteData (d : List Byte) (k : ExchCaller) (s : State) : State :=
  startExchange (s.cfg.cmdWriteData :: d) s.cfg.relWriteData.bytes s.cfg.pwrWriteData 0 k s

/-- `ReadData(n)` (R212). -/
def startReadData (n : Nat) (k : ExchCaller) (s : State) : State :=
  startExchange (s.cfg.cmdReadData :: allOnes n) s.cfg.relReadData.bytes s.cfg.pwrReadData 0 k s

/-- `PorRecover()` (R183): bus reset, then `WriteStatus(MIN + POR_ADJUST)`; its Run follows when the
write is answered. -/
def startPorRecover (p : PorCaller) (s : State) : State :=
  startWriteStatus (sat15 (Const.minCode.val + s.porAdjust)) (.porWrite p) (emit [.busReset] s)

/-! ### Starting a status read and a poll (R170, R173) -/

/-- `ReadStatus()` up to its `SelectDevice` (R170). -/
def startReadStatus (c : StatusCaller) (s : State) : State := { s with phase := .select c }

/-- One iteration of the poll loop up to its status read (R173): counted, then read. -/
def pollRead (c : PollCaller) (s : State) : State :=
  startReadStatus (.poll c) { s with pollIter := s.pollIter + 1 }

/-- `PollUntilReady(dir, code)` up to its first status read (R173). The bound test cannot bite, the
counter being 0. -/
def startPoll (c : PollCaller) (dir : Dir) (code : Int) (s : State) : State :=
  pollRead c { s with pollDir := dir, pollRt := clamp15 code, pollIter := 0 }

/-! ### Raising an error (R250) and step 6 of Transfer (R236) -/

/-- Whose operation a poll belongs to. -/
def PollCaller.owner : PollCaller → Owner
  | .host => .host
  | .sendLoop | .receiveLoop => .transfer

/-- Whose operation a status read belongs to. -/
def StatusCaller.owner : StatusCaller → Owner
  | .host => .host
  | .wire => .caller
  | .poll c => c.owner

/-- Whose operation a POR recovery belongs to. -/
def PorCaller.owner : PorCaller → Owner
  | .alone => .caller
  | .poll c => c.owner

/-- Whose operation an exchange belongs to. -/
def ExchCaller.owner : ExchCaller → Owner
  | .host _ => .host
  | .wire => .caller
  | .pollWrite c | .pollRun c | .pollBump c => c.owner
  | .porWrite p | .porRun p => p.owner
  | .tSHdr | .tSData | .tSWs | .tSRun | .tRHdr | .tRData _ | .tRWs | .tRRun => .transfer

/-- `fail e` after an error that step 6 does not retry (R236 a). -/
def transferStop (e : Error) (s : State) : State :=
  endOp .transfer (.err e) { s with lastErr := some e }

/-- The start of an attempt (R230, R232): the attempt counted, `FragInit` from the operand the
operation was issued with, then the first poll of the send loop (R233). -/
def startAttempt (s : State) : State :=
  match fragInit s.opPayload { s with attempt := s.attempt + 1, inReceive := false } with
  | (s', none) => startPoll .sendLoop .send Const.minCode.val s'
  | (s', some e) => transferStop e s'

/-- The increments of step 6 (R236 b to e): renegotiation, `RT`, `POR_ADJUST`, and `MIN_READ_RT` if
the receive loop had been entered. -/
def transferBump (s : State) : State :=
  emit [.renegotiateSpeed]
    { s with rt := sat15 (s.rt.val + 1), porAdjust := s.porAdjust + 1,
             minReadRt := if s.inReceive then sat15 (s.minReadRt.val + 1) else s.minReadRt }

/-- Step 6 of Transfer (R236): return the error at once, or make the increments and then return it
(third attempt) or go round from step 2. `POR_ARMED` stays as it is after the third failure too, so that
a later host POLL may recover with `POR_ADJUST` 3: DEDUCED from R29, R230, R89 and program P7, against
the last clause of R236 (log 28). -/
def transferFail (e : Error) (s : State) : State :=
  if endsTransfer e.code then transferStop e s
  else if s.attempt = Const.maxAttempts then
    endOp .transfer (.err e) (transferBump { s with lastErr := some e })
  else startAttempt (transferBump { s with lastErr := some e })

/-- `raise E(info)` (R250): nothing already written is undone; control goes to step 6 of Transfer if
a Transfer is under way, else to the end of the operation. -/
def raise (o : Owner) (e : Error) (s : State) : State :=
  match o with
  | .transfer => transferFail e s
  | .host | .caller => endOp o (.err e) s

/-- Go on with an `Except` of the fragmenter inside Transfer, or raise its error. -/
def orRaise {α : Type} (r : Except Error α) (s : State) (go : α → State) : State :=
  match r with
  | .ok a => go a
  | .error e => raise .transfer e s

/-! ### The poll loop (R173 to R183) -/

/-- The top of the poll loop (R173, R182): the bound is tested where the next iteration would begin. -/
def pollNext (c : PollCaller) (s : State) : State :=
  if s.pollIter ≥ Const.pollLimit then raise c.owner ErrCode.unrecoverable.plain s else pollRead c s

/-- A poll that succeeded gives its snapshot to its caller (R181, R28): POLL ends; the send loop forms
and writes the next header (R233); the receive loop reads a header (R234). -/
def pollReturn (c : PollCaller) (s : State) : State :=
  match c with
  | .host => endOp .host (.ok (.snapshot s.snap)) s
  | .sendLoop => orRaise (nextHeader s) s fun (h, s') => startWriteHeader h .tSHdr s'
  | .receiveLoop => startReadHeader .tRHdr s

/-- Arm 1 (R174): the sentinel resets the iteration counter. -/
def pollCount (s : State) : State :=
  if s.snap.sub = s.cfg.scNeedsMoreTime then { s with pollIter := 0 } else s

/-- The arm that the poll takes with the snapshot just read (R173, phase `P_DECIDE` of R184). -/
def armTaken (s : State) : Arm := pollArm s.cfg s.pollDir s.porArmed s.snap

/-- `POLL_RT` updated by the arm taken. -/
def withArmCode (a : Arm) (s : State) : State := { s with pollRt := armCode s.pollRt a }

/-- The action of an arm (R175 to R181, phase `P_ACT`). -/
def pollAct (c : PollCaller) (a : Arm) (s : State) : State :=
  match a with
  | .porRecover => startPorRecover (.poll c) { s with porArmed := false }
  | .busy => startRun s.pollRt (.pollRun c) s
  | .firstBirthday | .masterErase | .commandNotComplete =>
    startWriteStatus s.pollRt (.pollWrite c) s
  | .responseIncomplete => startRun Const.minCode (.pollRun c) s
  | .vmIncomplete => startRun Const.minCode (.pollBump c) s
  | .succeed => pollReturn c s
  | .fail e => raise c.owner e.plain s

/-- What the poll does with the snapshot in `SNAP` (R173): arm 1, then the arm it takes. -/
def pollDecide (c : PollCaller) (s : State) : State :=
  pollAct c (armTaken s) (withArmCode (armTaken s) (pollCount s))

/-! ### A status read that was answered (R170) -/

/-- A status read gives its snapshot to its caller. -/
def statusReturn (c : StatusCaller) (s : State) : State :=
  match c with
  | .host => endOp .host (.ok (.snapshot s.snap)) s
  | .wire => endOp .caller (.ok (.snapshot s.snap)) s
  | .poll p => pollDecide p s

/-- The residual of a status reply: the CRC over all seven bytes as received (R170). -/
def statusResidual (cfg : Cfg) (rx : List Byte) : Half := crc16 cfg cfg.statusCrcSeed rx

/-- The seven reply bytes of a status exchange: checked, decoded into `SNAP`, given on; or `CRC` with
`SNAP` unchanged (R170). -/
def statusAnswered (c : StatusCaller) (rx : List Byte) (s : State) : State :=
  let s := { s with statusScratch := rx }
  if accepts s.cfg s.corr (statusResidual s.cfg rx) Const.statusSpan then
    statusReturn c { s with snap := decodeStatus s.cfg (slice rx 1 Const.statusLen) }
  else raise c.owner ⟨.crc, .status⟩ s

/-- The answer of the first `SelectDevice` (R170): on false, one renegotiation and one more try. -/
def selectAnswered (c : StatusCaller) (ok : Bool) (s : State) : State :=
  if ok then { emit [.selectDevice s.addr true] s with phase := .statusBlock c }
  else { emit [.selectDevice s.addr false, .renegotiateSpeed] s with phase := .selectAgain c }

/-- The answer of the second `SelectDevice` (R170). -/
def selectAgainAnswered (c : StatusCaller) (ok : Bool) (s : State) : State :=
  if ok then { emit [.selectDevice s.addr true] s with phase := .statusBlock c }
  else raise c.owner ErrCode.notSelectable.plain (emit [.selectDevice s.addr false] s)

/-! ### An exchange that was answered (R200 to R205, R94) -/

/-- The command reply of the exchange just made (R94). -/
def cReply (s : State) : List Byte := commandReply s.xReply s.xCmd.length

/-- The release reply of the exchange just made (R94). -/
def rReply (s : State) : List Byte := releaseReply s.xReply s.xCmd.length

/-- The `Ok` value a host-issued framed operation takes from the replies (R89, R94). -/
def replyValue (use : ReplyUse) (s : State) : Value :=
  match use with
  | .none => .none
  | .replies => .replies (cReply s) (rReply s)
  | .header => .bytes (bodyReply (cReply s) Const.headerSize)
  | .data n => .bytes (bodyReply (cReply s) n)

/-- The code of the write status and run after a block of the send loop (R233): `MIN` while more
blocks remain, else `RT`. -/
def sendCode (s : State) : Code := if s.more then Const.minCode else s.rt

/-- The header that the receive loop just read (R210, R234): its length byte is tested before any data
is read. -/
def headerRead (h : List Byte) (s : State) : State :=
  if (byteAt h 1).toNat > Const.maxBlock then raise .transfer ErrCode.badHeader.plain s
  else startReadData (byteAt h 1).toNat (.tRData h) s

/-- The data that the receive loop just read (R212, R234): handed to `AcceptBlock` with the snapshot
of this turn's poll; if the reply is complete the Transfer ends with `Finish` (R235), else the next
block is asked for. -/
def dataRead (h d : List Byte) (s : State) : State :=
  orRaise (acceptBlock h d s.snap s) s fun (done, s') =>
    if done then orRaise (finish s') s' fun reply => endOp .transfer (.ok (.bytes reply)) s'
    else startWriteStatus s'.minReadRt .tRWs s'

/-- An understood exchange gives its replies to its caller, which goes on: the host operation ends, or
the poll loop (R173), POR recovery (R183) or Transfer (R233, R234) makes its next call. -/
def exchangeReturn (k : ExchCaller) (s : State) : State :=
  match k with
  | .host use => endOp .host (.ok (replyValue use s)) s
  | .wire => endOp .caller (.ok (replyValue .replies s)) s
  | .pollWrite c => startRun s.pollRt (.pollRun c) s
  | .pollRun c => pollNext c s
  | .pollBump c => pollNext c { s with minReadRt := sat15 (s.minReadRt.val + 1) }
  | .porWrite p => startRun (sat15 (Const.minCode.val + s.porAdjust)) (.porRun p) s
  | .porRun .alone => endOp .caller (.ok .none) s
  | .porRun (.poll c) => pollNext c s
  | .tSHdr => orRaise (nextData s) s fun d => startWriteData d .tSData s
  | .tSData => startWriteStatus (sendCode s) .tSWs s
  | .tSWs => startRun (sendCode s) .tSRun s
  | .tSRun =>
    if s.more then startPoll .sendLoop .send Const.minCode.val s
    else startPoll .receiveLoop .receive s.rt.val { s with inReceive := true }
  | .tRHdr => headerRead (bodyReply (cReply s) Const.headerSize) s
  | .tRData h => dataRead h (bodyReply (cReply s) (byteAt h 1).toNat) s
  | .tRWs => startRun s.minReadRt .tRRun s
  | .tRRun => startPoll .receiveLoop .receive s.rt.val s

/-- The not-understood test, after everything else of the exchange (R203, R204). -/
def sampled (k : ExchCaller) (b : Bool) (s : State) : State :=
  if b == s.cfg.notUnderstoodBit then raise k.owner ErrCode.notUnderstood.plain s
  else exchangeReturn k s

/-- A `DataBlock` of a frame that was answered (R200, R205): `SEL0` and the scratch take the reply,
and the status bit is asked for, after the power calls in power mode. -/
def blockAnswered (k : ExchCaller) (rx : List Byte) (s : State) : State :=
  { emit [.dataBlock (frameOut s) (some rx)] s with
    sel0 := byteAt rx 0, xReply := rx, phase := if s.xPower then .smart k else .bit k }

/-- The first `DataBlock` of a frame failed (R202): the four recovery calls, then the frame once
more. `xReply` stays as it was: DESIGN CHOICE, what a half-done transfer leaves in the scratch is open
(log 29). -/
def blockFailed (k : ExchCaller) (s : State) : State :=
  { emit [.dataBlock (frameOut s) none, .busReset, .speedSet .regular, .renegotiateSpeed, .busReset] s
    with phase := .blockRetry k }

/-- The answer of `CanDeliverSmartPower` (R203, D31). -/
def smartAnswered (k : ExchCaller) (smart : Bool) (s : State) : State :=
  { emit [.canDeliverSmartPower smart, .setPowerDuration (if smart then .smart else .infinite),
          .startPowerDelivery .afterBit] s with phase := .powerBit k }

/-- The status bit in power mode: the sleep and the return to normal power are made whatever it was
(R203). -/
def powerBitAnswered (k : ExchCaller) (b : Bool) (s : State) : State :=
  sampled k b (emit [.getBit b, .sleep s.xMs, .setPowerNormal] s)

/-- The status bit in non-power mode (R204). -/
def bitAnswered (k : ExchCaller) (b : Bool) (s : State) : State := sampled k b (emit [.getBit b] s)

/-- The answer of `SpeedGet` (R231): fail fast, or load `RT` and start the first attempt. The arming
was done when the operation was issued. -/
def speedAnswered (code : Int) (sp : Speed) (s : State) : State :=
  let s := emit [.speedGet sp] s
  if sp = .overdrive then startAttempt { s with rt := clamp15 code, attempt := 0 }
  else endOp .transfer (.err ErrCode.wrongSpeed.plain) s

/-! ### Taking answers -/

/-- One answer taken by the call that waits for it, with everything the block does up to its next
answered call or the end of the operation. Only `DataBlock` may be answered by a failure (R73); then
`xReply` and `statusScratch` stay as they were: DESIGN CHOICE (log 29). -/
def feed (a : Answer) (s : State) : Outcome :=
  match s.phase with
  | .idle => .next s
  | .tSpeed code => match a with
    | .speed sp => .next (speedAnswered code sp s)
    | .fail => .refused .callFailed
    | _ => .fault .wrongAnswer
  | .select c => match a with
    | .selected ok => .next (selectAnswered c ok s)
    | .fail => .refused .callFailed
    | _ => .fault .wrongAnswer
  | .selectAgain c => match a with
    | .selected ok => .next (selectAgainAnswered c ok s)
    | .fail => .refused .callFailed
    | _ => .fault .wrongAnswer
  | .statusBlock c => match a with
    | .block rx =>
      if rx.length = (statusFrame s.cfg).length then
        .next (statusAnswered c rx (emit [.dataBlock (statusFrame s.cfg) (some rx)] s))
      else .fault .wrongAnswer
    | .fail =>
      .next (raise c.owner ErrCode.comm.plain (emit [.dataBlock (statusFrame s.cfg) none] s))
    | _ => .fault .wrongAnswer
  | .block k => match a with
    | .block rx =>
      if rx.length = (frameOut s).length then .next (blockAnswered k rx s) else .fault .wrongAnswer
    | .fail => .next (blockFailed k s)
    | _ => .fault .wrongAnswer
  | .blockRetry k => match a with
    | .block rx =>
      if rx.length = (frameOut s).length then .next (blockAnswered k rx s) else .fault .wrongAnswer
    | .fail => .next (raise k.owner ErrCode.comm.plain (emit [.dataBlock (frameOut s) none] s))
    | _ => .fault .wrongAnswer
  | .smart k => match a with
    | .smart b => .next (smartAnswered k b s)
    | .fail => .refused .callFailed
    | _ => .fault .wrongAnswer
  | .powerBit k => match a with
    | .bit b => .next (powerBitAnswered k b s)
    | .fail => .refused .callFailed
    | _ => .fault .wrongAnswer
  | .bit k => match a with
    | .bit b => .next (bitAnswered k b s)
    | .fail => .refused .callFailed
    | _ => .fault .wrongAnswer

/-- The operation under way, run on the answers given until it ends or waits for an answer that is
not there yet; unused answers stay (log 7, log 8). -/
def drive : List Answer → State → Outcome
  | [], s => .next { s with answers := [] }
  | a :: as, s =>
    match s.phase with
    | .idle => .next { s with answers := a :: as }
    | _ => match feed a s with
      | .next s' => drive as s'
      | .fault f => .fault f
      | .refused r => .refused r

/-- The operation under way goes on with the answers at hand; IDLE stays as it is. -/
def resume (s : State) : Outcome := drive s.answers s

/-! ### Issuing an operation (R71, R90, R254) -/

/-- `Err(ILLEGAL_OP)` and nothing else (R90). -/
def illegalOp (s : State) : State := giveResult (.err ErrCode.illegalOp.plain) s

/-- A locking operation cannot begin: `LOCK` is set, or an operation is at a call (R71). -/
def busy (s : State) : Bool := s.lock || s.phase != .idle

/-- An operation that is held (R71): its request stays at the head of the host port and nothing else
happens. What has no host code cannot be held there. -/
def hold (i : Instr) (s : State) : Outcome :=
  match hostWord i with
  | some w => .next { s with host := .op w :: s.host }
  | none => .fault .sequencerBusy

/-- An operation that takes no lock and makes no call (R89): it acts at once. -/
def issueAtOnce (i : Instr) (s : State) (effect : State → State) : Outcome :=
  .next (if i.wf then effect s else illegalOp s)

/-- A locking operation (R71): illegal operands first, then held or begun with `LOCK` taken, and run
on the answers at hand. -/
def issueLocked (i : Instr) (s : State) (start : State → State) : Outcome :=
  if !i.wf then .next (illegalOp s)
  else if busy s then hold i s
  else resume (start { s with lock := true })

/-- An operation of a caller that holds `LOCK` already (R89, R31): it takes no lock; it can begin only
where no call is being made. -/
def issueInside (i : Instr) (s : State) (start : State → State) : Outcome :=
  if !i.wf then .next (illegalOp s)
  else if s.phase != .idle then hold i s
  else resume (start s)

/-- A locking operation of the fragmenter, which makes no call (R150 to R156): it ends at once. -/
def endWith {α : Type} (r : Except Error α) (s : State) (ok : α → Value × State) : State :=
  match r with
  | .ok a => endOp .host (.ok (ok a).1) (ok a).2
  | .error e => raise .host e s

/-- The operations that take `LOCK` (R89, column "lock"). -/
def locks : Instr → Bool
  | .tomillis _ | .setbase _ | .setincr _ | .crc16 _ _ | .correction _ | .validate _ _
  | .decodestatus _ => false
  | .fraginit _ | .nextheader | .nextdata | .acceptblock _ _ _ | .finish | .readstatus
  | .writestatus _ | .poll _ _ | .exchange _ _ _ _ | .run _ | .interrupt _ | .devreset
  | .writeheader _ | .readheader | .writedata _ | .readdata _ | .transfer _ _ => true
  | .porrecover | .wireWriteHeader _ | .wireReadHeader | .wireWriteData _ | .wireReadData _
  | .wireRun _ | .wireInterrupt _ | .wireReset | .wireWriteStatus _ | .wireReadStatus => false

end Sys2Proof.Machine
end

