-- ==== Sys2Proof/Machine/Compensator.lean ====
section
/-! DEFINITION. The CRC Drift Compensator operations (41_crc_compensator R130, R133, R134). -/

namespace Sys2Proof.Machine

/-- `CRC16 seed data` (R130). -/
def execCrc16 (seed : Half) (data : List Byte) (s : State) : Outcome :=
  issueAtOnce (.crc16 seed data) s (giveResult (.ok (.half (crc16 s.cfg seed data))))

/-- `CORRECTION length` (R133). -/
def execCorrection (length : Int) (s : State) : Outcome :=
  issueAtOnce (.correction length) s (giveResult (.ok (.half (correction s.corr length))))

/-- `VALIDATE crc length` (R134): nothing records which of the two tests accepted. -/
def execValidate (crc : Half) (length : Int) (s : State) : Outcome :=
  issueAtOnce (.validate crc length) s
    (giveResult (if accepts s.cfg s.corr crc length then .ok .none else .err ErrCode.crc.plain))

end Sys2Proof.Machine
end

