-- ==== Sys2Proof/Machine/Fragmenter.lean ====
section
/-! DEFINITION. The Message Fragmenter operations (42_fragmenter R150 to R156): each takes `LOCK` and
releases it in the same step, since none makes a collaborator call. -/

namespace Sys2Proof.Machine

/-- `FRAGINIT payload` (R150). -/
def execFraginit (payload : List Byte) (s : State) : Outcome :=
  issueLocked (.fraginit payload) s fun s =>
    match fragInit payload s with
    | (s', none) => endOp .host (.ok .none) s'
    | (s', some e) => raise .host e s'

/-- `NEXTHEADER` (R151). -/
def execNextheader (s : State) : Outcome :=
  issueLocked .nextheader s fun s => endWith (nextHeader s) s fun (h, s') => (.bytes h, s')

/-- `NEXTDATA` (R152). -/
def execNextdata (s : State) : Outcome :=
  issueLocked .nextdata s fun s => endWith (nextData s) s fun d => (.bytes d, s)

/-- `ACCEPTBLOCK header data snap` (R155). -/
def execAcceptblock (header data : List Byte) (snap : Snapshot) (s : State) : Outcome :=
  issueLocked (.acceptblock header data snap) s fun s =>
    endWith (acceptBlock header data snap s) s fun (done, s') => (.complete done, s')

/-- `FINISH` (R156). -/
def execFinish (s : State) : Outcome :=
  issueLocked .finish s fun s => endWith (finish s) s fun reply => (.bytes reply, s)

end Sys2Proof.Machine
end

