-- ==== Sys2Proof/Machine/Framer.lean ====
section
/-! DEFINITION. The Command Framer operations (44_command_framer R200, R206 to R212): each one
exchange with its own command, release code, power mode and wait (R88, R93). -/

namespace Sys2Proof.Machine

/-- `EXCHANGE cmdbytes rel power ms` (R200): both replies are handed back. -/
def execExchange (cmdbytes rel : List Byte) (power : Bool) (ms : Nat) (s : State) : Outcome :=
  issueLocked (.exchange cmdbytes rel power ms) s
    (startExchange cmdbytes rel power ms (.host .replies))

/-- `RUN code` (R206). -/
def execRun (code : Int) (s : State) : Outcome :=
  issueLocked (.run code) s (startRun (clamp15 code) (.host .none))

/-- `INTERRUPT code` (R207). -/
def execInterrupt (code : Int) (s : State) : Outcome :=
  issueLocked (.interrupt code) s (startInterrupt (clamp15 code) (.host .none))

/-- `DEVRESET` (R208). -/
def execDevreset (s : State) : Outcome :=
  issueLocked .devreset s (startDevReset (.host .none))

/-- `WRITEHEADER h` (R209). -/
def execWriteheader (h : List Byte) (s : State) : Outcome :=
  issueLocked (.writeheader h) s (startWriteHeader h (.host .none))

/-- `READHEADER` (R210). -/
def execReadheader (s : State) : Outcome :=
  issueLocked .readheader s (startReadHeader (.host .header))

/-- `WRITEDATA d` (R211). -/
def execWritedata (d : List Byte) (s : State) : Outcome :=
  issueLocked (.writedata d) s (startWriteData d (.host .none))

/-- `READDATA n` (R212). -/
def execReaddata (n : Nat) (s : State) : Outcome :=
  issueLocked (.readdata n) s (startReadData n (.host (.data n)))

end Sys2Proof.Machine
end

