-- ==== Sys2Proof/Machine/Status.lean ====
section
/-! DEFINITION. Status access, the poll loop and POR recovery (43_status_poll R170 to R173, R183). -/

namespace Sys2Proof.Machine

/-- `DECODESTATUS bytes` (R171): pure. -/
def execDecodestatus (bytes : List Byte) (s : State) : Outcome :=
  issueAtOnce (.decodestatus bytes) s (giveResult (.ok (.snapshot (decodeStatus s.cfg bytes))))

/-- `READSTATUS` (R170). -/
def execReadstatus (s : State) : Outcome :=
  issueLocked .readstatus s (startReadStatus .host)

/-- `WRITESTATUS code` (R172): the replies are dropped. -/
def execWritestatus (code : Int) (s : State) : Outcome :=
  issueLocked (.writestatus code) s (startWriteStatus (clamp15 code) (.host .none))

/-- `POLL dir code` (R173), on `POR_ARMED` and `POR_ADJUST` as they stand (R89, R305). -/
def execPoll (dir : Dir) (code : Int) (s : State) : Outcome :=
  issueLocked (.poll dir code) s (startPoll .host dir code)

/-- `PORRECOVER` (R183, R93), on its own: the poll loop runs the same procedure from arm 2. -/
def execPorrecover (s : State) : Outcome :=
  issueInside .porrecover s (startPorRecover .alone)

end Sys2Proof.Machine
end

