-- ==== Sys2Proof/Machine/Timing.lean ====
section
/-! DEFINITION. The Timing Model operations (40_timing R120 to R122). -/

namespace Sys2Proof.Machine

/-- `TOMILLIS code` (R120): total, reads the tunables, writes nothing. -/
def execTomillis (code : Int) (s : State) : Outcome :=
  issueAtOnce (.tomillis code) s (giveResult (.ok (.ms (toMillis s (clamp15 code)))))

/-- `SETBASE ms` (R121): `RANGE` below 63, and then `T_BASE` keeps its value. -/
def execSetbase (ms : Nat) (s : State) : Outcome :=
  issueAtOnce (.setbase ms) s fun s =>
    if ms < Const.baseMin then giveResult (.err ⟨.range, .base⟩) s
    else giveResult (.ok .none) { s with tBase := BitVec.ofNat 32 ms }

/-- `SETINCR ms` (R122): `RANGE` below 250, and then `T_INCR` keeps its value. -/
def execSetincr (ms : Nat) (s : State) : Outcome :=
  issueAtOnce (.setincr ms) s fun s =>
    if ms < Const.incrMin then giveResult (.err ⟨.range, .increment⟩) s
    else giveResult (.ok .none) { s with tIncr := BitVec.ofNat 32 ms }

end Sys2Proof.Machine
end

