-- ==== Sys2Proof/Machine/Transfer.lean ====
section
/-! DEFINITION. The Transfer Orchestrator operation (45_transfer R230 to R236). -/

namespace Sys2Proof.Machine

/-- Step 1 of Transfer up to its `SpeedGet` (R231): POR correction armed and its counter cleared
before the speed is known; the operands fixed at issue (R72). -/
def startTransfer (payload : List Byte) (code : Int) (s : State) : State :=
  { s with lastErr := none, porArmed := true, porAdjust := 0, opPayload := payload,
           phase := .tSpeed code }

/-- `TRANSFER payload code` (R230). -/
def execTransfer (payload : List Byte) (code : Int) (s : State) : Outcome :=
  issueLocked (.transfer payload code) s (startTransfer payload code)

end Sys2Proof.Machine
end

