-- ==== Sys2Proof/Machine/Wire.lean ====
section
/-! DEFINITION. The nine wire commands (30_encoding R88): the exchange of one frame on the bus, run on
its own inside an operation that holds `LOCK` (log 15, log 16). The operations of Framer.lean and
Status.lean make the same exchanges. -/

namespace Sys2Proof.Machine

/-- `WIRE_WRITE_HEADER` (R88, R209). -/
def execWireWriteHeader (h : List Byte) (s : State) : Outcome :=
  issueInside (.wireWriteHeader h) s (startWriteHeader h .wire)

/-- `WIRE_READ_HEADER` (R88, R210). -/
def execWireReadHeader (s : State) : Outcome :=
  issueInside .wireReadHeader s (startReadHeader .wire)

/-- `WIRE_WRITE_DATA` (R88, R211). -/
def execWireWriteData (d : List Byte) (s : State) : Outcome :=
  issueInside (.wireWriteData d) s (startWriteData d .wire)

/-- `WIRE_READ_DATA` (R88, R212). -/
def execWireReadData (n : Nat) (s : State) : Outcome :=
  issueInside (.wireReadData n) s (startReadData n .wire)

/-- `WIRE_RUN` (R88, R206): power mode, with the caller's wait. -/
def execWireRun (ms : Nat) (s : State) : Outcome :=
  issueInside (.wireRun ms) s (startExchange [s.cfg.cmdRun] s.cfg.relRun.bytes true ms .wire)

/-- `WIRE_INTERRUPT` (R88, R207): power mode, with the caller's wait. -/
def execWireInterrupt (ms : Nat) (s : State) : Outcome :=
  issueInside (.wireInterrupt ms) s
    (startExchange [s.cfg.cmdInterrupt] s.cfg.relInterrupt.bytes true ms .wire)

/-- `WIRE_RESET` (R88, R208). -/
def execWireReset (s : State) : Outcome :=
  issueInside .wireReset s (startDevReset .wire)

/-- `WIRE_WRITE_STATUS` (R88, R172). -/
def execWireWriteStatus (code : Code) (s : State) : Outcome :=
  issueInside (.wireWriteStatus code) s (startWriteStatus code .wire)

/-- `WIRE_READ_STATUS` (R84, R170): the 7-byte exchange with a device already selected. -/
def execWireReadStatus (s : State) : Outcome :=
  issueInside .wireReadStatus s fun s => { s with phase := .statusBlock .wire }

end Sys2Proof.Machine
end

