-- ==== Sys2Proof/Machine/Dispatch.lean ====
section
/-! DEFINITION. One arm per operation. -/

namespace Sys2Proof.Machine

def exec (i : Instr) (s : State) : Host.Outcome State Fault Refusal :=
  match i with
  | .tomillis code => Sys2Proof.Machine.execTomillis code s
  | .setbase ms => Sys2Proof.Machine.execSetbase ms s
  | .setincr ms => Sys2Proof.Machine.execSetincr ms s
  | .crc16 seed data => Sys2Proof.Machine.execCrc16 seed data s
  | .correction length => Sys2Proof.Machine.execCorrection length s
  | .validate crc length => Sys2Proof.Machine.execValidate crc length s
  | .fraginit payload => Sys2Proof.Machine.execFraginit payload s
  | .nextheader => Sys2Proof.Machine.execNextheader s
  | .nextdata => Sys2Proof.Machine.execNextdata s
  | .acceptblock header data snap => Sys2Proof.Machine.execAcceptblock header data snap s
  | .finish => Sys2Proof.Machine.execFinish s
  | .decodestatus bytes => Sys2Proof.Machine.execDecodestatus bytes s
  | .readstatus => Sys2Proof.Machine.execReadstatus s
  | .writestatus code => Sys2Proof.Machine.execWritestatus code s
  | .poll dir code => Sys2Proof.Machine.execPoll dir code s
  | .exchange cmdbytes rel power ms => Sys2Proof.Machine.execExchange cmdbytes rel power ms s
  | .run code => Sys2Proof.Machine.execRun code s
  | .interrupt code => Sys2Proof.Machine.execInterrupt code s
  | .devreset => Sys2Proof.Machine.execDevreset s
  | .writeheader h => Sys2Proof.Machine.execWriteheader h s
  | .readheader => Sys2Proof.Machine.execReadheader s
  | .writedata d => Sys2Proof.Machine.execWritedata d s
  | .readdata n => Sys2Proof.Machine.execReaddata n s
  | .transfer payload code => Sys2Proof.Machine.execTransfer payload code s
  | .porrecover => Sys2Proof.Machine.execPorrecover s
  | .wireWriteHeader h => Sys2Proof.Machine.execWireWriteHeader h s
  | .wireReadHeader => Sys2Proof.Machine.execWireReadHeader s
  | .wireWriteData d => Sys2Proof.Machine.execWireWriteData d s
  | .wireReadData n => Sys2Proof.Machine.execWireReadData n s
  | .wireRun ms => Sys2Proof.Machine.execWireRun ms s
  | .wireInterrupt ms => Sys2Proof.Machine.execWireInterrupt ms s
  | .wireReset => Sys2Proof.Machine.execWireReset s
  | .wireWriteStatus code => Sys2Proof.Machine.execWireWriteStatus code s
  | .wireReadStatus => Sys2Proof.Machine.execWireReadStatus s

end Sys2Proof.Machine
end

