-- ==== Sys2Proof/Machine/Port.lean ====
section
/-! DEFINITION. The host port: what a request at its head does (20_memory R71, 30_encoding R86 and R90,
70_reset_and_hazards R290). -/

namespace Sys2Proof.Machine

/-- A host word at the head of the port. One that selects no operation is `ILLEGAL_OP`, before
anything else (R90, R254). A locking operation is held while one is under way, which then goes on
(R71); an operation that takes no lock is served at once (R303, D43). -/
def serve (w : HostWord) (rest : List Request) (s : State) : Outcome :=
  match decodeHost w with
  | .error _ => .next (illegalOp { s with host := rest })
  | .ok i => if locks i && busy s then resume s else exec i { s with host := rest }

/-- Block reset, taken in IDLE only (R290, U7). What is outside the block stays: the requests and
answers still to come, and the record of the events made (log 17). -/
def blockReset (addr : Addr) (rest : List Request) (s : State) : Outcome :=
  match s.phase with
  | .idle =>
    .next { State.initial s.cfg addr with host := rest, answers := s.answers, trace := s.trace }
  | _ => .refused .resetInOperation

/-- The table word as the request that is taken next: at the head of the host port, the block in IDLE
with `LOCK` free (log 11). -/
def atPort (s : State) (nbits w : Nat) : State :=
  { s with host := .op (tableHostWord nbits w) :: s.host, phase := .idle, lock := false }

end Sys2Proof.Machine
end

