-- ==== Sys2Proof/Machine/Step.lean ====
section
/-! DEFINITION. One step of the block (10_state R27, 20_memory R69, R71): it takes the request at the
head of the host port and runs it, or goes on with the operation under way. -/

namespace Sys2Proof.Machine

/-- One step. With no request it is the operation under way that goes on; in IDLE nothing happens
(R35). -/
def step (s : State) : Host.Outcome State Fault Refusal :=
  match s.host with
  | [] => resume s
  | .reset addr :: rest => blockReset addr rest s
  | .op w :: rest => serve w rest s

/-- The state with a table word as the request that the next step takes and runs (log 11). -/
def State.withFetchWord (s : State) (nbits w : Nat) : State := atPort s nbits w

end Sys2Proof.Machine
end

