-- ==== Sys2Proof/Machine/Phases.lean ====
section
/-! DEFINITION. Reading `PHASE` (10_state R27): whose operation is under way, which call is being made,
and the phase names of 43_status_poll R184 and 45_transfer R237. -/

namespace Sys2Proof.Machine

/-- The exchange under way, if the phase is one of its calls (R200). -/
def Phase.exchange : Phase → Option ExchCaller
  | .block k | .blockRetry k | .smart k | .powerBit k | .bit k => some k
  | .idle | .tSpeed _ | .select _ | .selectAgain _ | .statusBlock _ => none

/-- The exchange under way has had its `DataBlock` answered (R200). -/
def Phase.replied : Phase → Bool
  | .smart _ | .powerBit _ | .bit _ => true
  | .idle | .tSpeed _ | .select _ | .selectAgain _ | .statusBlock _ | .block _ | .blockRetry _ => false

/-- The status read under way, if the phase is one of its calls (R170). -/
def Phase.statusRead : Phase → Option StatusCaller
  | .select c | .selectAgain c | .statusBlock c => some c
  | .idle | .tSpeed _ | .block _ | .blockRetry _ | .smart _ | .powerBit _ | .bit _ => none

/-- Whose operation is under way (none in IDLE). -/
def Phase.owner : Phase → Option Owner
  | .idle => none
  | .tSpeed _ => some .transfer
  | .select c | .selectAgain c | .statusBlock c => some c.owner
  | .block k | .blockRetry k | .smart k | .powerBit k | .bit k => some k.owner

/-- The poll that a status read belongs to. -/
def StatusCaller.poll? : StatusCaller → Option PollCaller
  | .poll c => some c
  | .host | .wire => none

/-- The poll that an exchange belongs to. -/
def ExchCaller.poll? : ExchCaller → Option PollCaller
  | .pollWrite c | .pollRun c | .pollBump c => some c
  | .porWrite (.poll c) | .porRun (.poll c) => some c
  | .porWrite .alone | .porRun .alone => none
  | .host _ | .wire | .tSHdr | .tSData | .tSWs | .tSRun | .tRHdr | .tRData _ | .tRWs | .tRRun => none

/-- The poll under way (phases of R184). -/
def Phase.poll? : Phase → Option PollCaller
  | .idle | .tSpeed _ => none
  | .select c | .selectAgain c | .statusBlock c => c.poll?
  | .block k | .blockRetry k | .smart k | .powerBit k | .bit k => k.poll?

/-- An exchange of a POR recovery (R183). -/
def ExchCaller.recovers : ExchCaller → Bool
  | .porWrite _ | .porRun _ => true
  | _ => false

/-- Phase names: those of Transfer (R237), those of the poll loop (R184), and one for a component
operation issued alone. The block rests in those that make an answered call; the others (`T_ARM`,
`T_INIT`, `T_R_ACCEPT`, `T_FAIL`, `T_END`, `P_CHECK`, `P_DECIDE`) it passes through inside a step
(log 9). -/
inductive PhaseName
  | IDLE | T_ARM | T_SPEED | T_INIT | T_S_POLL | T_S_HDR | T_S_DATA | T_S_WS | T_S_RUN
  | T_R_POLL | T_R_HDR | T_R_DATA | T_R_ACCEPT | T_R_WS | T_R_RUN | T_FAIL | T_END
  | P_CHECK | P_READ | P_DECIDE | P_ACT
  | component
  deriving DecidableEq, Repr

/-- The phase of the operation that polls. -/
def PollCaller.phaseName : PollCaller → PhaseName
  | .host => .component
  | .sendLoop => .T_S_POLL
  | .receiveLoop => .T_R_POLL

/-- The phase of R237 (or the component operation) that the block is in. -/
def Phase.name : Phase → PhaseName
  | .idle => .IDLE
  | .tSpeed _ => .T_SPEED
  | .select c | .selectAgain c | .statusBlock c => match c with
    | .host | .wire => .component
    | .poll p => p.phaseName
  | .block k | .blockRetry k | .smart k | .powerBit k | .bit k => match k with
    | .host _ | .wire | .porWrite .alone | .porRun .alone => .component
    | .pollWrite p | .pollRun p | .pollBump p | .porWrite (.poll p) | .porRun (.poll p) => p.phaseName
    | .tSHdr => .T_S_HDR
    | .tSData => .T_S_DATA
    | .tSWs => .T_S_WS
    | .tSRun => .T_S_RUN
    | .tRHdr => .T_R_HDR
    | .tRData _ => .T_R_DATA
    | .tRWs => .T_R_WS
    | .tRRun => .T_R_RUN

/-- The phase of R184 inside a poll: `P_READ` in its status read, `P_ACT` in an arm's calls. -/
def Phase.pollName : Phase → Option PhaseName
  | .select (.poll _) | .selectAgain (.poll _) | .statusBlock (.poll _) => some .P_READ
  | .block k | .blockRetry k | .smart k | .powerBit k | .bit k => k.poll?.map fun _ => .P_ACT
  | _ => none

/-- The send loop of Transfer is under way (R233, R237). -/
def Phase.sendSide (p : Phase) : Bool :=
  match p.name with
  | .T_S_POLL | .T_S_HDR | .T_S_DATA | .T_S_WS | .T_S_RUN => true
  | _ => false

/-- The receive loop of Transfer is under way (R234, R237). -/
def Phase.receiveSide (p : Phase) : Bool :=
  match p.name with
  | .T_R_POLL | .T_R_HDR | .T_R_DATA | .T_R_WS | .T_R_RUN => true
  | _ => false

end Sys2Proof.Machine
end

