-- ==== Sys2Proof/Safety.lean ====
section
/-! DEFINITION. What counts as a safe run, and the words the claims use: the launch premises, the
invariant of the block, the shapes of what passes over its ports, the blocks the fragmenter forms. -/

namespace Sys2Proof.Machine

/-! ### Premises -/

/-- A locking operation can begin: `LOCK` clear and the block in IDLE (R71). -/
def Ready (s : State) : Prop := s.lock = false ∧ s.phase = .idle

/-- The configuration is one of this hardware (R7, U9). That the host holds the exclusive bus lock
from the first to the last event of an operation (R300) is outside this state: every answer is taken
as the answer of this block's own call (log 19). -/
def Launch (s : State) : Prop := s.cfg.wf = true

/-! ### The invariant -/

/-- The fragmentation registers after a successful `FragInit` (R25, R157 d): the cursor within the
payload, the current block just before it, `MORE` exactly while something is left, blocks of at most
120 bytes, and the sequence number that of the next block. -/
structure FragInv (s : State) : Prop where
  length : s.plen = s.pay.length
  atLeast : 1 ≤ s.plen
  atMost : s.plen ≤ Const.maxPayload
  cursor : s.cursor ≤ s.plen
  current : s.curOff + s.curLen = s.cursor
  block : s.curLen ≤ Const.maxBlock
  more : s.more = true ↔ s.cursor < s.plen
  fullBlocks : s.more = true → s.cursor % Const.maxBlock = 0
  sequence : s.seq.toNat = (s.cursor + (Const.maxBlock - 1)) / Const.maxBlock % 128

/-- The invariant of the block: what the spec says of its registers in every state that runs reach. -/
structure Inv (s : State) : Prop where
  /-- R21 -/
  base : Const.baseMin ≤ s.tBase.toNat
  /-- R21 -/
  increment : Const.incrMin ≤ s.tIncr.toNat
  /-- R7 -/
  baseReset : Const.baseMin ≤ s.cfg.baseReset.toNat
  /-- R7 -/
  incrementReset : Const.incrMin ≤ s.cfg.incrReset.toNat
  /-- R23, R132 -/
  table : s.corr = corrTable s.cfg
  /-- R28, R260 -/
  iterations : s.pollIter ≤ Const.pollLimit
  /-- R26, R239 c -/
  attempts : s.attempt ≤ Const.maxAttempts
  /-- R26, R260 -/
  adjustment : s.porAdjust ≤ Const.maxAttempts
  /-- R231 -/
  arming : ∀ code, s.phase = .tSpeed code → s.porAdjust = 0
  /-- R232, R236: inside an attempt one adjustment for each attempt before, and the payload loaded -/
  attempt : s.phase.owner = some .transfer → (∀ code, s.phase ≠ .tSpeed code) →
    s.attempt = s.porAdjust + 1 ∧ s.fragValid = true ∧ s.pay = s.opPayload
  /-- R233, R236 -/
  sending : s.phase.sendSide = true → s.inReceive = false
  /-- R233: a poll of the send loop has a block to send -/
  toSend : s.phase.name = .T_S_POLL → s.more = true
  /-- R233: the header just written describes a block -/
  described : s.phase.name = .T_S_HDR → 1 ≤ s.curLen
  /-- R237: no receive-side call precedes the final block's run -/
  receiving : s.phase.receiveSide = true → s.inReceive = true ∧ s.more = false
  /-- R175: the recovery is consumed before it starts -/
  recovering : ∀ k, s.phase.exchange = some k → k.recovers = true → s.porArmed = false
  /-- R25 -/
  fragments : s.fragValid = true → FragInv s
  /-- R31, R71 -/
  lock : s.lock = true ↔ s.phase ≠ .idle
  /-- R89: what runs is the host's -/
  owner : s.phase.owner ≠ some .caller
  /-- R81, R200 -/
  frame : ∀ k, s.phase.exchange = some k →
    1 ≤ s.xCmd.length ∧ s.xCmd.length ≤ 1 + Const.maxBlock ∧ 2 ≤ s.xRel.length ∧ s.xRel.length ≤ 3
  /-- R63, R200: past its `DataBlock` an exchange has a reply byte for each byte sent -/
  reply : s.phase.replied = true → s.xReply.length = 9 + s.xCmd.length + s.xRel.length
  /-- R212, R234: the read asks for as many bytes as the header just read says -/
  reading : ∀ h, s.phase.exchange = some (.tRData h) → s.xCmd.length = 1 + (byteAt h 1).toNat
  /-- R230, R158 -/
  lastError : ∀ e, s.lastErr = some e →
    e.code ≠ .illegalOp ∧ e.code ≠ .range ∧ e.code ≠ .order ∧ e.code ≠ .wrongSpeed

/-! ### Shapes of the trace -/

/-- A `DataBlock` on the bus is a status exchange (R84) or a frame (R81, R91): `SELECT_CMD` first and
12 to 133 bytes. -/
def BusShape (cfg : Cfg) : Event → Prop
  | .dataBlock tx _ =>
    tx = statusFrame cfg ∨ (tx.head? = some cfg.selectCmd ∧ 12 ≤ tx.length ∧ tx.length ≤ 133)
  | _ => True

/-! ### Exchanges, for claims -/

/-- The arguments of an exchange (R200). -/
structure Exch where
  cmd : List Byte
  rel : List Byte
  power : Bool
  ms : Nat
  deriving DecidableEq, Repr

/-- What the environment does in an exchange: whether the first `DataBlock` fails (and the second does
not), the reply, whether smart power can be delivered, and the status bit. -/
structure Reply where
  retried : Bool
  rx : List Byte
  smart : Bool
  bit : Bool
  deriving DecidableEq, Repr

/-- The frame an exchange sends from a state (R81, R82). -/
def frameSent (s : State) (x : Exch) : List Byte :=
  [s.cfg.selectCmd] ++ s.addr.toList ++ x.cmd ++ x.rel

/-- The reply has one byte for each byte sent (R63): 9 for the select words, then those of `cmd` and
`rel`. -/
def Reply.fits (r : Reply) (x : Exch) : Prop := r.rx.length = 9 + x.cmd.length + x.rel.length

/-- The answers of a whole exchange (R200, R202, R203, R204). -/
def exchangeAnswers (x : Exch) (r : Reply) : List Answer :=
  (if r.retried then [.fail] else []) ++ [.block r.rx]
    ++ (if x.power then [.smart r.smart] else []) ++ [.bit r.bit]

/-- The warning of R201. -/
def warnings (s : State) : List Event := if s.sel0 = s.cfg.selectCmd then [] else [.warn .firstByte]

/-- The recovery of R202 after a `DataBlock` that failed. -/
def recoveryEvents (tx : List Byte) : List Event :=
  [.dataBlock tx none, .busReset, .speedSet .regular, .renegotiateSpeed, .busReset]

/-- The events after the `DataBlock` that answered: the power sequence with its wait, or one `GetBit`
(R203, R204). -/
def sampleEvents (power : Bool) (ms : Nat) (smart bit : Bool) : List Event :=
  if power then
    [.canDeliverSmartPower smart, .setPowerDuration (if smart then .smart else .infinite),
     .startPowerDelivery .afterBit, .getBit bit, .sleep ms, .setPowerNormal]
  else [.getBit bit]

/-- The events of a whole exchange, in the order of R200. -/
def exchangeEvents (s : State) (x : Exch) (r : Reply) : List Event :=
  warnings s ++ (if r.retried then recoveryEvents (frameSent s x) else [])
    ++ [.dataBlock (frameSent s x) (some r.rx)] ++ sampleEvents x.power x.ms r.smart r.bit

/-- The state after an exchange that ended its operation with a given result: the arguments and the
reply in the frame scratch, the reply's first byte in `SEL0` (R94, R205), the events made. -/
def afterExchange (s : State) (x : Exch) (r : Reply) (result : Result) (rest : List Answer) : State :=
  { s with
    sel0 := r.rx.getD 0 0, xCmd := x.cmd, xRel := x.rel, xPower := x.power, xMs := x.ms, xReply := r.rx
    trace := s.trace ++ exchangeEvents s x r
    result := some result, answers := rest }

/-- The wait an exchange makes: its milliseconds in power mode, 0 of them included (R200, R203); none in
non-power mode (R204). -/
def Exch.waits (x : Exch) : List Nat := if x.power then [x.ms] else []

/-- Operation `i`, issued in state `s`, is one exchange with arguments `x` and, understood by the
device, answers the next state with the value that `v` takes from the reply, whatever answers come
after. -/
def CompletesAs (i : Instr) (s : State) (x : Exch) (v : List Byte → Value) : Prop :=
  ∀ (r : Reply) (rest : List Answer),
    s.answers = exchangeAnswers x r ++ rest → r.fits x → r.bit ≠ s.cfg.notUnderstoodBit →
    exec i s = .next (afterExchange s x r (.ok (v r.rx)) rest)

/-- The state in which an exchange with arguments `x` has begun and waits for its `DataBlock`. -/
def exchangeStarted (x : Exch) (k : ExchCaller) (s : State) : State :=
  { s with xCmd := x.cmd, xRel := x.rel, xPower := x.power, xMs := x.ms, phase := .block k
           trace := s.trace ++ warnings s }

/-- The wait of a run-time code: `code * T_INCR + T_BASE` (R120). -/
def waitOf (s : State) (code : Nat) : Nat := code * s.tIncr.toNat + s.tBase.toNat

/-- A run-time code operand clamped to 0..15 (R87 e). -/
def clamped (code : Int) : Nat := (max 0 (min 15 code)).toNat

/-- The run exchange with a run-time code (R206). -/
def runExch (s : State) (code : Nat) : Exch :=
  ⟨[s.cfg.cmdRun], s.cfg.relRun.bytes, true, waitOf s code⟩

/-- The interrupt exchange (R207). -/
def interruptExch (s : State) (code : Nat) : Exch :=
  ⟨[s.cfg.cmdInterrupt], s.cfg.relInterrupt.bytes, true, waitOf s code⟩

/-- The reset exchange (R208). -/
def resetExch (s : State) : Exch := ⟨[s.cfg.cmdReset], s.cfg.relReset.bytes, false, 0⟩

/-- The write-status exchange (R172): the code in bits 3:0 of one byte (R87 f). -/
def writeStatusExch (s : State) (code : Nat) : Exch :=
  ⟨[s.cfg.cmdWriteStatus, BitVec.ofNat 8 code], s.cfg.relWriteStatus.bytes, s.cfg.pwrWriteStatus, 0⟩

/-- The write-header exchange (R209). -/
def writeHeaderExch (s : State) (h : List Byte) : Exch :=
  ⟨s.cfg.cmdWriteHeader :: h, s.cfg.relWriteHeader.bytes, s.cfg.pwrWriteHeader, 0⟩

/-- The read-header exchange (R210). -/
def readHeaderExch (s : State) : Exch :=
  ⟨s.cfg.cmdReadHeader :: List.replicate 8 0xFF, s.cfg.relReadHeader.bytes, s.cfg.pwrReadHeader, 0⟩

/-- The write-data exchange (R211). -/
def writeDataExch (s : State) (d : List Byte) : Exch :=
  ⟨s.cfg.cmdWriteData :: d, s.cfg.relWriteData.bytes, s.cfg.pwrWriteData, 0⟩

/-- The read-data exchange (R212). -/
def readDataExch (s : State) (n : Nat) : Exch :=
  ⟨s.cfg.cmdReadData :: List.replicate n 0xFF, s.cfg.relReadData.bytes, s.cfg.pwrReadData, 0⟩

/-- The reply bytes under `cmd` and under `rel` (R94). -/
def bothReplies (x : Exch) (rx : List Byte) : Value :=
  .replies ((rx.drop 9).take x.cmd.length) (rx.drop (9 + x.cmd.length))

/-- The exchange that an operation of one exchange makes from a state (R88, R93, R172, R206 to R212);
none for the other operations. -/
def framed (s : State) : Instr → Option Exch
  | .writestatus code => some (writeStatusExch s (clamped code))
  | .exchange cmdbytes rel power ms => some ⟨cmdbytes, rel, power, ms⟩
  | .run code => some (runExch s (clamped code))
  | .interrupt code => some (interruptExch s (clamped code))
  | .devreset => some (resetExch s)
  | .writeheader h => some (writeHeaderExch s h)
  | .readheader => some (readHeaderExch s)
  | .writedata d => some (writeDataExch s d)
  | .readdata n => some (readDataExch s n)
  | .wireWriteHeader h => some (writeHeaderExch s h)
  | .wireReadHeader => some (readHeaderExch s)
  | .wireWriteData d => some (writeDataExch s d)
  | .wireReadData n => some (readDataExch s n)
  | .wireRun ms => some ⟨[s.cfg.cmdRun], s.cfg.relRun.bytes, true, ms⟩
  | .wireInterrupt ms => some ⟨[s.cfg.cmdInterrupt], s.cfg.relInterrupt.bytes, true, ms⟩
  | .wireReset => some (resetExch s)
  | .wireWriteStatus code => some (writeStatusExch s code.val)
  | .tomillis _ | .setbase _ | .setincr _ | .crc16 _ _ | .correction _ | .validate _ _
  | .fraginit _ | .nextheader | .nextdata | .acceptblock _ _ _ | .finish | .decodestatus _
  | .readstatus | .poll _ _ | .transfer _ _ | .porrecover | .wireReadStatus => none

/-! ### Status reads and polls, for claims -/

/-- A reply to a status exchange that passes its check (R170): seven bytes whose residual is good,
plainly or with the correction for 7. -/
def GoodStatus (s : State) (rx : List Byte) : Prop :=
  rx.length = 7 ∧
    (crc16 s.cfg s.cfg.statusCrcSeed rx = goodResidual s.cfg ∨
      crc16 s.cfg s.cfg.statusCrcSeed rx ^^^ correction s.corr 7 = goodResidual s.cfg)

/-- The snapshot of a status reply: the decoding of its bytes 1 to 4 (R170, R171). -/
def snapshotOf (s : State) (rx : List Byte) : Snapshot := decodeStatus s.cfg ((rx.drop 1).take 4)

/-- The answers of a status read whose first `SelectDevice` is true. -/
def statusAnswers (rx : List Byte) : List Answer := [.selected true, .block rx]

/-- Its events (R170). -/
def statusEvents (s : State) (rx : List Byte) : List Event :=
  [.selectDevice s.addr true, .dataBlock (statusFrame s.cfg) (some rx)]

/-- None of the tests of arms 2 to 7 holds of a snapshot (R173): it reaches the steady state, arm 8. -/
def Steady (cfg : Cfg) (snap : Snapshot) : Prop :=
  snap.por = false ∧ snap.busy = false ∧ snap.sub ≠ cfg.scFirstBirthday
    ∧ snap.sub ≠ cfg.scMasterErase ∧ snap.cnc = false ∧ snap.sub ≠ cfg.scResponseIncomplete
    ∧ ¬ (snap.sub = cfg.scVmIncomplete ∧ snap.used = 0)

/-- The steady-state success test (R181). -/
def Served (dir : Dir) (snap : Snapshot) : Prop :=
  match dir with
  | .send => 8 ≤ snap.free.toNat
  | .receive => snap.used.toNat = 8

/-- The iteration count after arm 1 (R174). -/
def countAfter (s : State) (snap : Snapshot) : Nat :=
  if snap.sub = s.cfg.scNeedsMoreTime then 0 else s.pollIter

/-- A state of a poll after the `DataBlock` of its status read gave an accepted reply, arm 1 applied
(R170, R174). -/
def polled (s : State) (rx : List Byte) : State :=
  { s with
    statusScratch := rx, snap := snapshotOf s rx, pollIter := countAfter s (snapshotOf s rx)
    trace := s.trace ++ [.dataBlock (statusFrame s.cfg) (some rx)], answers := [] }

/-- A poll that has just begun: its first iteration counted, its status read at the `SelectDevice`
(R173). -/
def pollStarted (c : PollCaller) (dir : Dir) (code : Code) (s : State) : State :=
  { s with pollDir := dir, pollRt := code, pollIter := 1, phase := .select (.poll c) }

/-- The block waits for the status bit of an exchange of caller `k`, in power mode or not. -/
def AtBit (s : State) (k : ExchCaller) (power : Bool) : Prop :=
  s.phase = if power then .powerBit k else .bit k

/-- The state after the status bit `b` of an exchange: the wait and the return to normal power made in
power mode (R203), no answer left. -/
def bitTaken (s : State) (power b : Bool) : State :=
  { s with
    trace := s.trace ++ (if power then [.getBit b, .sleep s.xMs, .setPowerNormal] else [.getBit b])
    answers := [] }

/-! ### Frames

What may differ between two states; each field that is not named is the same in both. -/

/-- The frame of an operation of one exchange (R200, R205). -/
def ExchangeFrame (s s' : State) : Prop :=
  s' = { s with
    sel0 := s'.sel0, xCmd := s'.xCmd, xRel := s'.xRel, xPower := s'.xPower, xMs := s'.xMs
    xReply := s'.xReply, phase := s'.phase, lock := s'.lock, result := s'.result
    trace := s'.trace, answers := s'.answers }

/-- The frame of a status read (R170): `SNAP` and the status scratch. -/
def StatusFrame (s s' : State) : Prop :=
  s' = { s with
    snap := s'.snap, statusScratch := s'.statusScratch, phase := s'.phase, lock := s'.lock
    result := s'.result, trace := s'.trace, answers := s'.answers }

/-- The frame of `PORRECOVER` (R183): that of its two exchanges, and it takes no `LOCK` (R89). -/
def RecoverFrame (s s' : State) : Prop := ExchangeFrame s s' ∧ s'.lock = s.lock

/-- The frame of a poll (R173, "State written"): its registers, `SNAP`, `POR_ARMED`, `MIN_READ_RT`, and
what status reads and exchanges write. -/
def PollLoopFrame (s s' : State) : Prop :=
  s' = { s with
    pollDir := s'.pollDir, pollRt := s'.pollRt, pollIter := s'.pollIter, snap := s'.snap
    porArmed := s'.porArmed, minReadRt := s'.minReadRt, statusScratch := s'.statusScratch
    sel0 := s'.sel0, xCmd := s'.xCmd, xRel := s'.xRel, xPower := s'.xPower, xMs := s'.xMs
    xReply := s'.xReply, phase := s'.phase, lock := s'.lock, result := s'.result
    trace := s'.trace, answers := s'.answers }

/-! ### Reading a list of events -/

/-- The byte strings sent by `DataBlock`, in order. -/
def sent (es : List Event) : List (List Byte) :=
  es.filterMap fun
    | .dataBlock tx _ => some tx
    | _ => none

/-- The waits, in order. -/
def sleeps (es : List Event) : List Nat :=
  es.filterMap fun
    | .sleep ms => some ms
    | _ => none

/-- An event is a `SpeedGet`. -/
def Event.isSpeedGet : Event → Bool
  | .speedGet _ => true
  | _ => false

/-! ### Answers -/

/-- Whether an answer is one that the call being made in a phase can have (R62, R63). -/
def fits (s : State) : Answer → Bool
  | .speed _ => match s.phase with
    | .tSpeed _ => true
    | _ => false
  | .selected _ => match s.phase with
    | .select _ | .selectAgain _ => true
    | _ => false
  | .block rx => match s.phase with
    | .statusBlock _ => rx.length == 7
    | .block _ | .blockRetry _ => rx.length == 9 + s.xCmd.length + s.xRel.length
    | _ => false
  | .fail => match s.phase with
    | .statusBlock _ | .block _ | .blockRetry _ => true
    | _ => false
  | .smart _ => match s.phase with
    | .smart _ => true
    | _ => false
  | .bit _ => match s.phase with
    | .powerBit _ | .bit _ => true
    | _ => false

/-! ### The blocks of a payload -/

/-- `NextHeader` and `NextData` called in turn until `MORE` is false, at most `fuel` times (R157). -/
def sendBlocks : Nat → State → List (List Byte × List Byte)
  | 0, _ => []
  | fuel + 1, s =>
    match nextHeader s with
    | .error _ => []
    | .ok (h, s') => match nextData s' with
      | .error _ => []
      | .ok d => (h, d) :: sendBlocks fuel s'

end Sys2Proof.Machine
end

