-- ==== Sys2Proof/Certificates/Slice0/Obligations.lean ====
section
/-! DEFINITION. The statements for the provers, each from the numbered rules of spec/. Where a
statement gives the whole next state, what it does not name is unchanged: it is its own frame. -/

open Sys2Proof Sys2Proof.Machine

/-! ### Encoding -/

/-- Decoding what the encoder writes gives the operation back: every constructor, every well-formed
operand, every configuration of R7 and every device address (R81, R84, R86, R88, R89). -/
def Obligations.DecodeEncodeRoundTrip : Prop :=
  ∀ (cfg : Cfg) (addr : Addr) (i : Instr),
    cfg.wf = true → i.wf = true → decode cfg (encode cfg addr i) = .ok i

/-- The decoder gives only operations whose operands are of their types (R90 b). -/
def Obligations.DecodeGivesWellFormed : Prop :=
  ∀ (cfg : Cfg) (e : Encoded) (i : Instr), decode cfg e = .ok i → i.wf = true

/-- One meaning for each word: a host word that decodes has the operation byte that the encoder writes
for what it decodes to, and a byte string on the bus that decodes is what the encoder writes for some
device address (R82, R86, R88, R89). That the wait stands beside the bytes of a run or an interrupt, and
0 beside those of every other command, is the model's choice (log 16). -/
def Obligations.WordsHaveOneMeaning : Prop :=
  (∀ (w : HostWord) (i : Instr), decodeHost w = .ok i → ∃ p, hostWord i = some ⟨w.op, p⟩) ∧
  (∀ (cfg : Cfg) (tx : List Byte) (ms : Nat) (i : Instr), decode cfg (.wire tx ms) = .ok i →
    ∃ (addr : Addr) (ms' : Nat), encode cfg addr i = .wire tx ms' ∧
      (((i = .wireRun ms ∨ i = .wireInterrupt ms) ∧ ms' = ms) ∨
        ((∀ n, i ≠ .wireRun n) ∧ (∀ n, i ≠ .wireInterrupt n) ∧ ms' = 0)))

/-- Words written out from the spec's encodings (R86, R88, R89): a sanity check. -/
def Obligations.SampleWordsDecode : Prop :=
  decodeHost ⟨0x01, { Ports.zero with code := -1 }⟩ = .ok (.tomillis (-1)) ∧
  decodeHost ⟨0x0F, { Ports.zero with dir := some .receive, code := 2 }⟩ = .ok (.poll .receive 2) ∧
  decodeHost ⟨0x18, { Ports.zero with payload := [0xCA, 0xFE], code := 4 }⟩
    = .ok (.transfer [0xCA, 0xFE] 4) ∧
  decodeHost ⟨0x21, Ports.zero⟩ = .error .reservedBits ∧
  (∀ cfg : Cfg, cfg.wf = true →
    decode cfg (.wire [cfg.selectCmd, 0x96, 0x11, 0x22, 0x33, 0x44, 0x55, 0x66, 0x7A,
      cfg.cmdWriteStatus, 0x04, cfg.relWriteStatus.first, cfg.relWriteStatus.second] 0)
      = .ok (.wireWriteStatus 4)) ∧
  (∀ cfg : Cfg, cfg.wf = true →
    decode cfg (.wire [cfg.cmdReadStatus, 0xFF, 0xFF, 0xFF, 0xFF, 0xFF, 0xFF] 0)
      = .ok .wireReadStatus)

/-- Which host words select no operation, and why (R90 a, b): a bit of `op[7:5]`, an unused number, or
an operand outside the type of its row; run-time codes never. -/
def Obligations.WordsThatSelectNoOperation : Prop :=
  ∀ w : HostWord,
    (decodeHost w = .error .reservedBits ↔ opHigh w.op ≠ 0) ∧
    (decodeHost w = .error .unusedCode ↔
      opHigh w.op = 0 ∧ (opNumber w.op = 0 ∨ 0x19 ≤ opNumber w.op)) ∧
    (decodeHost w = .error .operandType ↔ opHigh w.op = 0 ∧
      ((opNumber w.op = 0x02 ∧ 2 ^ 32 ≤ w.ports.ms) ∨
       (opNumber w.op = 0x03 ∧ 2 ^ 32 ≤ w.ports.ms) ∨
       (opNumber w.op = 0x0A ∧ w.ports.header.length ≠ 8) ∨
       (opNumber w.op = 0x0C ∧ w.ports.bytes.length ≠ 4) ∨
       (opNumber w.op = 0x0F ∧ w.ports.dir = none) ∨
       (opNumber w.op = 0x10 ∧ (w.ports.cmdbytes = [] ∨ 121 < w.ports.cmdbytes.length ∨
          (w.ports.rel.length ≠ 2 ∧ w.ports.rel.length ≠ 3))) ∨
       (opNumber w.op = 0x14 ∧ w.ports.h.length ≠ 8) ∨
       (opNumber w.op = 0x16 ∧ (w.ports.d = [] ∨ 120 < w.ports.d.length)) ∨
       (opNumber w.op = 0x17 ∧ 120 < w.ports.n)))

/-- `ILLEGAL_OP` and nothing else (R90, R254): a request whose word selects no operation, in any state,
with `LOCK` set or not; and an operation, however it came to be issued, whose operand is outside its
type (log 25). -/
def Obligations.IllegalOperationsChangeNothing : Prop :=
  (∀ (s : State) (w : HostWord) (rest : List Request) (e : DecodeError),
    s.host = .op w :: rest → decodeHost w = .error e →
    step s = .next { s with host := rest, result := some (.err ⟨.illegalOp, .none⟩) }) ∧
  (∀ (s : State) (i : Instr), i.wf = false →
    exec i s = .next { s with result := some (.err ⟨.illegalOp, .none⟩) })

/-! ### The step -/

/-- A step runs the decoded operation: the request at the head of the host port is taken off and
executed, if it takes no lock or the block is free (R71, R86, R89). -/
def Obligations.StepRunsDecodedOperation : Prop :=
  ∀ (s : State) (w : HostWord) (rest : List Request) (i : Instr),
    s.host = .op w :: rest → decodeHost w = .ok i → (locks i = false ∨ Ready s) →
    step s = exec i { s with host := rest }

/-- A locking operation issued while one is under way is held: its request and those behind it stay at
the port and the step is one of the operation under way (R71; log 14). -/
def Obligations.HeldOperationWaits : Prop :=
  ∀ (s : State) (w : HostWord) (rest : List Request) (i : Instr),
    s.host = .op w :: rest → decodeHost w = .ok i → locks i = true → ¬ Ready s →
    step s = resume s ∧ ∀ s', step s = .next s' → s'.host = s.host

/-! ### Timing Model -/

/-- `TOMILLIS` (R120): host code 0x01; in every state, one with an operation under way included, the
result is the clamped code times `T_INCR` plus `T_BASE`, below `16 * 2^32`, and nothing else changes. -/
def Obligations.TomillisGivesTheWait : Prop :=
  (∀ p : Ports, decodeHost ⟨0x01, p⟩ = .ok (.tomillis p.code)) ∧
  ∀ (s : State) (code : Int),
    exec (.tomillis code) s = .next { s with
      result := some (.ok (.ms ((max 0 (min 15 code)).toNat * s.tIncr.toNat + s.tBase.toNat))) } ∧
    (max 0 (min 15 code)).toNat * s.tIncr.toNat + s.tBase.toNat < 16 * 2 ^ 32

/-- `SETBASE` (R121): host code 0x02; 2^32 or more is `ILLEGAL_OP`; below 63 `RANGE(base)` and `T_BASE`
keeps its value; else `T_BASE` takes the operand, and every wait sized after it uses it. It takes no
lock: a step serves it whatever operation is under way. Nothing else changes. -/
def Obligations.SetbaseSetsOrRefuses : Prop :=
  (∀ p : Ports, decodeHost ⟨0x02, p⟩
    = if p.ms < 2 ^ 32 then .ok (.setbase p.ms) else .error .operandType) ∧
  (∀ (s : State) (ms : Nat), 2 ^ 32 ≤ ms →
    exec (.setbase ms) s = .next { s with result := some (.err ⟨.illegalOp, .none⟩) }) ∧
  (∀ (s : State) (ms : Nat), ms < 63 →
    exec (.setbase ms) s = .next { s with result := some (.err ⟨.range, .base⟩) }) ∧
  (∀ (s : State) (v : BitVec 32), 63 ≤ v.toNat →
    exec (.setbase v.toNat) s = .next { s with tBase := v, result := some (.ok .none) } ∧
    ∀ c : Code, toMillis { s with tBase := v, result := some (.ok .none) } c
      = c.val * s.tIncr.toNat + v.toNat) ∧
  (∀ (s : State) (p : Ports) (rest : List Request), s.host = .op ⟨0x02, p⟩ :: rest →
    step s = exec (.setbase p.ms) { s with host := rest })

/-- `SETINCR` (R122): as `SETBASE`, with host code 0x03, the bound 250, `RANGE(increment)` and
`T_INCR`. -/
def Obligations.SetincrSetsOrRefuses : Prop :=
  (∀ p : Ports, decodeHost ⟨0x03, p⟩
    = if p.ms < 2 ^ 32 then .ok (.setincr p.ms) else .error .operandType) ∧
  (∀ (s : State) (ms : Nat), 2 ^ 32 ≤ ms →
    exec (.setincr ms) s = .next { s with result := some (.err ⟨.illegalOp, .none⟩) }) ∧
  (∀ (s : State) (ms : Nat), ms < 250 →
    exec (.setincr ms) s = .next { s with result := some (.err ⟨.range, .increment⟩) }) ∧
  (∀ (s : State) (v : BitVec 32), 250 ≤ v.toNat →
    exec (.setincr v.toNat) s = .next { s with tIncr := v, result := some (.ok .none) } ∧
    ∀ c : Code, toMillis { s with tIncr := v, result := some (.ok .none) } c
      = c.val * v.toNat + s.tBase.toNat) ∧
  (∀ (s : State) (p : Ports) (rest : List Request), s.host = .op ⟨0x03, p⟩ :: rest →
    step s = exec (.setincr p.ms) { s with host := rest })

/-- The arithmetic laws of the waits (R123): the clamp is idempotent; a wait does not fall when the
code, `T_BASE` or `T_INCR` grows; in every state with the invariant it is at least 63 plus 250 for each
unit of the clamped code. -/
def Obligations.WaitsAreMonotoneAndBounded : Prop :=
  (∀ c : Int, clamp15 ((clamp15 c).val : Int) = clamp15 c) ∧
  (∀ (s t : State) (c d : Int), s.tBase ≤ t.tBase → s.tIncr ≤ t.tIncr → c ≤ d →
    toMillis s (clamp15 c) ≤ toMillis t (clamp15 d)) ∧
  (∀ (s : State) (c : Int), Inv s →
    63 + 250 * (max 0 (min 15 c)).toNat ≤ toMillis s (clamp15 c))

/-! ### CRC and compensation -/

/-- `CRC16` (R130): the operation gives the configuration's function of its operands and changes
nothing else; the default function is the shift-register loop, with the laws and the example values the
rule states. -/
def Obligations.Crc16IsTheShiftRegister : Prop :=
  (∀ p : Ports, decodeHost ⟨0x04, p⟩ = .ok (.crc16 p.seed p.data)) ∧
  (∀ (s : State) (seed : Half) (data : List Byte),
    exec (.crc16 seed data) s
      = .next { s with result := some (.ok (.half (crc16 s.cfg seed data))) }) ∧
  ∀ cfg : Cfg, cfg.crcFn = .oneWire →
    (∀ seed, crc16 cfg seed [] = seed) ∧
    (∀ seed b data, crc16 cfg seed (b :: data) =
      crc16 cfg ((List.range 8).foldl
        (fun c _ => if c.getLsbD 0 then (c >>> 1) ^^^ 0xA001 else c >>> 1)
        (seed ^^^ b.setWidth 16)) data) ∧
    (∀ seed d1 d2, crc16 cfg seed (d1 ++ d2) = crc16 cfg (crc16 cfg seed d1) d2) ∧
    (∀ s1 s2 d1 d2, d1.length = d2.length →
      crc16 cfg (s1 ^^^ s2) (List.zipWith (· ^^^ ·) d1 d2) = crc16 cfg s1 d1 ^^^ crc16 cfg s2 d2) ∧
    (∀ seed, crc16 cfg seed [0, 0] = crc16 cfg 0 [seed.setWidth 8, (seed >>> 8).setWidth 8]) ∧
    crc16 cfg 0 [0x00] = 0x0000 ∧ crc16 cfg 0 [0x01] = 0xC0C1 ∧
    crc16 cfg 0 [0x31, 0x32, 0x33, 0x34, 0x35, 0x36, 0x37, 0x38, 0x39] = 0xBB3D ∧
    crc16 cfg 0 [0xFF, 0xFF] = 0xB001

/-- The residual law (R131): with the default CRC, data followed by its own CRC field, low byte first,
leaves the good residual, whatever the seed and the data; that residual is 0xB001 for the complemented
field and 0 for the plain one. -/
def Obligations.OwnCrcLeavesGoodResidual : Prop :=
  ∀ cfg : Cfg, cfg.crcFn = .oneWire →
    (∀ (seed : Half) (data : List Byte),
      crc16 cfg seed (data ++
        [(crc16 cfg seed data ^^^ cfg.crcFieldXor).setWidth 8,
         ((crc16 cfg seed data ^^^ cfg.crcFieldXor) >>> 8).setWidth 8]) = goodResidual cfg) ∧
    (cfg.crcFieldXor = 0xFFFF → goodResidual cfg = 0xB001) ∧
    (cfg.crcFieldXor = 0 → goodResidual cfg = 0)

/-- The correction table (R132): 139 entries, the first the CRC of the byte 1, each of the others the
CRC of the entry before it as `TABLE_FEED` says; with the defaults all entries differ and none is 0. -/
def Obligations.CorrectionTableRecurrence : Prop :=
  ∀ cfg : Cfg,
    (corrTable cfg).length = 139 ∧
    (corrTable cfg)[0]? = some (crc16 cfg 0 [0x01]) ∧
    (∀ (i : Nat) (v : Half), i < 138 → (corrTable cfg)[i]? = some v →
      (corrTable cfg)[i + 1]? = some (match cfg.tableFeed with
        | .le16 => crc16 cfg 0 [v.setWidth 8, (v >>> 8).setWidth 8]
        | .be16 => crc16 cfg 0 [(v >>> 8).setWidth 8, v.setWidth 8]
        | .low8 => crc16 cfg 0 [v.setWidth 8])) ∧
    (cfg.crcFn = .oneWire → cfg.tableFeed = .le16 →
      (corrTable cfg).take 8
        = [0xC0C1, 0xC051, 0xC03D, 0xC010, 0x900D, 0xFC04, 0x8102, 0x00C1] ∧
      (corrTable cfg)[138]? = some 0xF585 ∧ (corrTable cfg).Nodup ∧ 0 ∉ corrTable cfg)

/-- `CORRECTION` (R133): host code 0x05; the entry at `length - 1` for the lengths 1 to 139, zero for
every other integer, and nothing else changes. -/
def Obligations.CorrectionLooksUp : Prop :=
  (∀ p : Ports, decodeHost ⟨0x05, p⟩ = .ok (.correction p.length)) ∧
  (∀ (s : State) (length : Int), length < 1 ∨ 139 < length →
    exec (.correction length) s = .next { s with result := some (.ok (.half 0)) }) ∧
  (∀ (s : State) (n : Nat) (v : Half), n < 139 → s.corr[n]? = some v →
    exec (.correction ((n : Int) + 1)) s = .next { s with result := some (.ok (.half v)) })

/-- `VALIDATE` (R134, R136): host code 0x06; it accepts the good residual for every length, and for a
length of 1 to 139 that residual exclusive-ored with the table's entry; any other residual is `CRC`.
Nothing else changes. -/
def Obligations.ValidateAcceptsTwoResiduals : Prop :=
  (∀ p : Ports, decodeHost ⟨0x06, p⟩ = .ok (.validate p.crc p.length)) ∧
  ∀ (s : State) (crc : Half) (length : Int),
    (crc = goodResidual s.cfg →
      exec (.validate crc length) s = .next { s with result := some (.ok .none) }) ∧
    (length < 1 ∨ 139 < length → crc ≠ goodResidual s.cfg →
      exec (.validate crc length) s = .next { s with result := some (.err ⟨.crc, .none⟩) }) ∧
    (∀ v, 1 ≤ length → length ≤ 139 → s.corr[length.toNat - 1]? = some v →
      exec (.validate crc length) s = .next { s with
        result := some (if crc = goodResidual s.cfg ∨ crc = goodResidual s.cfg ^^^ v then .ok .none
          else .err ⟨.crc, .none⟩) })

/-! ### Fragmenter -/

/-- `FRAGINIT` (R150): a payload of 1 to 16384 bytes is loaded and the fragmentation registers start
clean; any other is `INVALID_PAYLOAD` and only `FRAG_VALID` is cleared. -/
def Obligations.FraginitLoadsOrRefuses : Prop :=
  ∀ (s : State) (payload : List Byte), Ready s →
    (1 ≤ payload.length → payload.length ≤ 16384 →
      exec (.fraginit payload) s = .next { s with
        pay := payload, plen := payload.length, cursor := 0, seq := 0, chk := 0, more := true
        curOff := 0, curLen := 0, acc := [], fragValid := true, result := some (.ok .none) }) ∧
    (payload.length = 0 ∨ 16384 < payload.length →
      exec (.fraginit payload) s = .next { s with
        fragValid := false, result := some (.err ⟨.invalidPayload, .none⟩) })

/-- `NEXTHEADER` (R151, R83, R87, R153): the eight header bytes and the registers after them; `ORDER`
and no change if no payload is loaded or the final block has been formed. The checksum and the CRC are
those of the configuration. -/
def Obligations.NextheaderFormsTheBlock : Prop :=
  ∀ s : State, Ready s →
    (s.fragValid = false ∨ s.more = false →
      exec .nextheader s = .next { s with result := some (.err ⟨.order, .none⟩) }) ∧
    (∀ (rem blen : Nat) (data : List Byte) (fld chk : Half), s.fragValid = true → s.more = true →
      rem = s.plen - s.cursor → blen = min rem 120 → data = (s.pay.drop s.cursor).take blen →
      fld = crc16 s.cfg s.cfg.blockCrcSeed (BitVec.ofNat 8 blen :: data) ^^^ s.cfg.crcFieldXor →
      chk = chkUpdate s.cfg s.chk data →
      exec .nextheader s = .next { s with
        chk := chk, seq := s.seq + 1, curOff := s.cursor, curLen := blen
        cursor := s.cursor + blen, more := decide (rem ≠ blen)
        result := some (.ok (.bytes
          [s.seq.setWidth 8 ||| (if rem = blen then 0x80 else 0), BitVec.ofNat 8 blen,
           BitVec.ofNat 8 rem, BitVec.ofNat 8 (rem / 256),
           fld.setWidth 8, (fld >>> 8).setWidth 8, chk.setWidth 8, (chk >>> 8).setWidth 8])) })

/-- The running checksum (R154): with the default update, the sum of the block's bytes added to it,
modulo 65536. -/
def Obligations.ChecksumIsTheByteSum : Prop :=
  ∀ (cfg : Cfg) (chk : Half) (data : List Byte), cfg.chkFn = .byteSum →
    (chkUpdate cfg chk data).toNat = (chk.toNat + (data.map BitVec.toNat).sum) % 65536

/-- `NEXTDATA` (R152): the slice the latest `NEXTHEADER` described, as often as it is asked for; `ORDER`
before the first; no other state changes. -/
def Obligations.NextdataGivesTheSlice : Prop :=
  (∀ p : Ports, decodeHost ⟨0x09, p⟩ = .ok .nextdata) ∧
  ∀ s : State, Ready s →
    (s.fragValid = false ∨ s.curLen = 0 →
      exec .nextdata s = .next { s with result := some (.err ⟨.order, .none⟩) }) ∧
    (s.fragValid = true → s.curLen ≠ 0 →
      exec .nextdata s = .next { s with
        result := some (.ok (.bytes ((s.pay.drop s.curOff).take s.curLen))) })

/-- `ACCEPTBLOCK` (R155): `ORDER` without `FRAGINIT` or for a length mismatch; then the check over the
length byte, the data and the two field bytes, keyed by the length byte; `CRC(block)` and no change if
it fails; else the data less three bytes is appended and the result tells whether the snapshot said
"command complete". Header bytes 0, 2, 3, 6 and 7 do not matter. -/
def Obligations.AcceptblockChecksAndAppends : Prop :=
  ∀ (s : State) (data : List Byte) (snap : Snapshot) (b0 n b2 b3 b4 b5 b6 b7 : Byte)
    (header : List Byte) (r : Half), Ready s →
    header = [b0, n, b2, b3, b4, b5, b6, b7] →
    r = crc16 s.cfg s.cfg.blockCrcSeed ([n] ++ data ++ [b4, b5]) →
    (s.fragValid = false ∨ data.length ≠ n.toNat →
      exec (.acceptblock header data snap) s
        = .next { s with result := some (.err ⟨.order, .none⟩) }) ∧
    (s.fragValid = true → data.length = n.toNat → r ≠ goodResidual s.cfg →
      r ^^^ correction s.corr n.toNat ≠ goodResidual s.cfg →
      exec (.acceptblock header data snap) s
        = .next { s with result := some (.err ⟨.crc, .block⟩) }) ∧
    (s.fragValid = true → data.length = n.toNat →
      r = goodResidual s.cfg ∨ r ^^^ correction s.corr n.toNat = goodResidual s.cfg →
      exec (.acceptblock header data snap) s = .next { s with
        acc := s.acc ++ data.drop 3
        result := some (.ok (.complete (decide (snap.sub = s.cfg.scCommandComplete)))) })

/-- `FINISH` (R156): what has been accepted so far; `ORDER` without `FRAGINIT`; nothing changes. -/
def Obligations.FinishGivesTheReply : Prop :=
  (∀ p : Ports, decodeHost ⟨0x0B, p⟩ = .ok .finish) ∧
  ∀ s : State, Ready s →
    (s.fragValid = false →
      exec .finish s = .next { s with result := some (.err ⟨.order, .none⟩) }) ∧
    (s.fragValid = true →
      exec .finish s = .next { s with result := some (.ok (.bytes s.acc)) })

/-- Fragmenting covers the payload (R157 a to f): for every payload that `FragInit` accepts, the blocks
formed until `MORE` is false are `ceil(L / 120)` many; their data, in order, are the payload; block `k`
has 120 bytes unless it is the last, sequence number `k mod 128`, `rem = L - 120 k`, and the final
marker exactly if it is the last; with the default CRC every block's residual is good. -/
def Obligations.FragmentingCoversThePayload : Prop :=
  ∀ (s : State) (payload : List Byte) (fuel : Nat) (blocks : List (List Byte × List Byte)),
    1 ≤ payload.length → payload.length ≤ 16384 → (payload.length + 119) / 120 ≤ fuel →
    blocks = sendBlocks fuel (fragInit payload s).1 →
    blocks.length = (payload.length + 119) / 120 ∧
    (blocks.map Prod.snd).flatten = payload ∧
    ∀ (k : Nat) (h d : List Byte), blocks[k]? = some (h, d) →
      d.length = min 120 (payload.length - 120 * k) ∧ 1 ≤ d.length ∧ h.length = 8 ∧
      h[0]? = some (BitVec.ofNat 8 (k % 128 + if k + 1 = blocks.length then 128 else 0)) ∧
      h[1]? = some (BitVec.ofNat 8 d.length) ∧
      h[2]? = some (BitVec.ofNat 8 (payload.length - 120 * k)) ∧
      h[3]? = some (BitVec.ofNat 8 ((payload.length - 120 * k) / 256)) ∧
      (s.cfg.crcFn = .oneWire →
        crc16 s.cfg s.cfg.blockCrcSeed ([BitVec.ofNat 8 d.length] ++ d ++ (h.drop 4).take 2)
          = goodResidual s.cfg)

/-- What the send side forms the receive side accepts (R157 f): with the default CRC, every block of a
payload, handed unchanged to `ACCEPTBLOCK` in any state ready for it, is accepted and `ACC` gains its
data less three bytes. -/
def Obligations.SentBlocksAreAccepted : Prop :=
  ∀ (s t : State) (payload : List Byte) (fuel : Nat) (h d : List Byte) (snap : Snapshot),
    (h, d) ∈ sendBlocks fuel (fragInit payload s).1 →
    t.cfg = s.cfg → s.cfg.crcFn = .oneWire → Ready t → t.fragValid = true →
    exec (.acceptblock h d snap) t = .next { t with
      acc := t.acc ++ d.drop 3
      result := some (.ok (.complete (decide (snap.sub = t.cfg.scCommandComplete)))) }

/-! ### Status -/

/-- `DECODESTATUS` (R171): each field from the bits the rule names, for all four bytes; nothing else
changes. -/
def Obligations.DecodestatusReadsTheBits : Prop :=
  (∀ p : Ports, p.bytes.length = 4 → decodeHost ⟨0x0C, p⟩ = .ok (.decodestatus p.bytes)) ∧
  ∀ (s : State) (b0 b1 b2 b3 : Byte),
    exec (.decodestatus [b0, b1, b2, b3]) s = .next { s with
      result := some (.ok (.snapshot
        { free := b0 &&& ~~~s.cfg.freeDontcareMask, used := b1, por := b2.getLsbD 6
          cnc := b2.getLsbD 5, sub := b2.setWidth 5, busy := b3.getLsbD 0 })) }

/-- `READSTATUS` (R170): the device selected at the first try, or at the second after a renegotiation,
then the seven-byte exchange: an accepted reply is decoded into `SNAP` and given; a bad one is
`CRC(status)`, a failure `COMM` without a retry, and two refused selections `NOT_SELECTABLE`, all with
`SNAP` unchanged. And its calls one at a time, in a status read of any caller: a poll of the host or of a
transfer goes from call to call in the same way, and each failure is raised to whoever owns the poll.
Where the caller is the wire command run on its own, who owns it is the model's choice (log 15); that a
failed `DataBlock` leaves the status scratch as it was is too (log 29). -/
def Obligations.ReadstatusReads : Prop :=
  (∀ (s : State) (retried : Bool) (pre : List Answer) (es : List Event) (rest : List Answer), Ready s →
    pre = (if retried then [.selected false] else []) →
    es = (if retried then [.selectDevice s.addr false, .renegotiateSpeed] else []) →
    (∀ rx, s.answers = pre ++ [.selected true, .block rx] ++ rest → GoodStatus s rx →
      exec .readstatus s = .next { s with
        snap := snapshotOf s rx, statusScratch := rx
        trace := s.trace ++ es ++ statusEvents s rx
        result := some (.ok (.snapshot (snapshotOf s rx))), answers := rest }) ∧
    (∀ rx, s.answers = pre ++ [.selected true, .block rx] ++ rest → rx.length = 7 → ¬ GoodStatus s rx →
      exec .readstatus s = .next { s with
        statusScratch := rx, trace := s.trace ++ es ++ statusEvents s rx
        result := some (.err ⟨.crc, .status⟩), answers := rest }) ∧
    (s.answers = pre ++ [.selected true, .fail] ++ rest →
      exec .readstatus s = .next { s with
        trace := s.trace ++ es ++ [.selectDevice s.addr true, .dataBlock (statusFrame s.cfg) none]
        result := some (.err ⟨.comm, .none⟩), answers := rest }) ∧
    (s.answers = [.selected false, .selected false] ++ rest →
      exec .readstatus s = .next { s with
        trace := s.trace ++
          [.selectDevice s.addr false, .renegotiateSpeed, .selectDevice s.addr false]
        result := some (.err ⟨.notSelectable, .none⟩), answers := rest })) ∧
  ∀ (s : State) (c : StatusCaller), s.host = [] →
    (s.phase = .select c ∨ s.phase = .selectAgain c → s.answers = [.selected true] →
      step s = .next { s with
        phase := .statusBlock c, trace := s.trace ++ [.selectDevice s.addr true], answers := [] }) ∧
    (s.phase = .select c → s.answers = [.selected false] →
      step s = .next { s with
        phase := .selectAgain c
        trace := s.trace ++ [.selectDevice s.addr false, .renegotiateSpeed], answers := [] }) ∧
    (s.phase = .selectAgain c → s.answers = [.selected false] →
      step s = .next (raise c.owner ⟨.notSelectable, .none⟩ { s with
        trace := s.trace ++ [.selectDevice s.addr false], answers := [] })) ∧
    (s.phase = .statusBlock c → s.answers = [.fail] →
      step s = .next (raise c.owner ⟨.comm, .none⟩ { s with
        trace := s.trace ++ [.dataBlock (statusFrame s.cfg) none], answers := [] })) ∧
    (∀ rx, s.phase = .statusBlock c → s.answers = [.block rx] → rx.length = 7 → ¬ GoodStatus s rx →
      step s = .next (raise c.owner ⟨.crc, .status⟩ { s with
        statusScratch := rx
        trace := s.trace ++ [.dataBlock (statusFrame s.cfg) (some rx)], answers := [] }))

/-! ### Command Framer -/

/-- `EXCHANGE` (R200 to R205, R94), understood by the device: one frame, sent again after the recovery if
the first try failed, the power sequence or one `GetBit`, `SEL0` from the reply, both replies handed
back. And its calls up to the status bit one at a time, in an exchange of any caller. That a failed
`DataBlock` leaves the reply part of the frame scratch as it was is the model's choice (log 29). -/
def Obligations.ExchangeHandsBackReplies : Prop :=
  (∀ (s : State) (cmdbytes rel : List Byte) (power : Bool) (ms : Nat), Ready s →
    1 ≤ cmdbytes.length → cmdbytes.length ≤ 121 → (rel.length = 2 ∨ rel.length = 3) →
    CompletesAs (.exchange cmdbytes rel power ms) s ⟨cmdbytes, rel, power, ms⟩
      (bothReplies ⟨cmdbytes, rel, power, ms⟩)) ∧
  ∀ (s : State) (k : ExchCaller) (tx : List Byte), s.host = [] →
    tx = frameSent s ⟨s.xCmd, s.xRel, s.xPower, s.xMs⟩ →
    (∀ rx, s.phase = .block k ∨ s.phase = .blockRetry k → s.answers = [.block rx] →
      rx.length = tx.length →
      step s = .next { s with
        sel0 := rx.getD 0 0, xReply := rx, phase := if s.xPower then .smart k else .bit k
        trace := s.trace ++ [.dataBlock tx (some rx)], answers := [] }) ∧
    (s.phase = .block k → s.answers = [.fail] →
      step s = .next { s with
        phase := .blockRetry k, trace := s.trace ++ recoveryEvents tx, answers := [] }) ∧
    (∀ smart, s.phase = .smart k → s.answers = [.smart smart] →
      step s = .next { s with
        phase := .powerBit k
        trace := s.trace ++ [.canDeliverSmartPower smart,
          .setPowerDuration (if smart then .smart else .infinite), .startPowerDelivery .afterBit]
        answers := [] })

/-- `RUN` and `INTERRUPT` (R206, R207): the fixed three bytes in power mode, the wait that of the clamped
code with the tunables as they are; replies dropped. -/
def Obligations.RunAndInterruptWait : Prop :=
  ∀ (s : State) (code : Int), Ready s →
    CompletesAs (.run code) s
      ⟨[s.cfg.cmdRun], [s.cfg.relRun.first, s.cfg.relRun.second], true,
        (max 0 (min 15 code)).toNat * s.tIncr.toNat + s.tBase.toNat⟩ (fun _ => .none) ∧
    CompletesAs (.interrupt code) s
      ⟨[s.cfg.cmdInterrupt], [s.cfg.relInterrupt.first, s.cfg.relInterrupt.second], true,
        (max 0 (min 15 code)).toNat * s.tIncr.toNat + s.tBase.toNat⟩ (fun _ => .none)

/-- `DEVRESET`, `WRITESTATUS`, `WRITEHEADER` and `WRITEDATA` (R208, R172, R209, R211): each its own
command byte, body and release code; the code of a write status clamped, in one byte; replies
dropped. -/
def Obligations.ControlAndWriteOperations : Prop :=
  ∀ s : State, Ready s →
    CompletesAs .devreset s
      ⟨[s.cfg.cmdReset], [s.cfg.relReset.first, s.cfg.relReset.second], false, 0⟩ (fun _ => .none) ∧
    (∀ code : Int, CompletesAs (.writestatus code) s
      ⟨[s.cfg.cmdWriteStatus, BitVec.ofNat 8 (max 0 (min 15 code)).toNat],
        [s.cfg.relWriteStatus.first, s.cfg.relWriteStatus.second], s.cfg.pwrWriteStatus, 0⟩
      (fun _ => .none)) ∧
    (∀ h : List Byte, h.length = 8 → CompletesAs (.writeheader h) s
      ⟨s.cfg.cmdWriteHeader :: h, s.cfg.relWriteHeader.bytes, s.cfg.pwrWriteHeader, 0⟩
      (fun _ => .none)) ∧
    (∀ d : List Byte, 1 ≤ d.length → d.length ≤ 120 → CompletesAs (.writedata d) s
      ⟨s.cfg.cmdWriteData :: d, s.cfg.relWriteData.bytes, s.cfg.pwrWriteData, 0⟩ (fun _ => .none))

/-- `READHEADER` and `READDATA` (R210, R212, R94): an all-ones payload is sent and the bytes that came
back under it, reply bytes 10 and on, are the result. -/
def Obligations.ReadOperations : Prop :=
  ∀ s : State, Ready s →
    CompletesAs .readheader s
      ⟨s.cfg.cmdReadHeader :: List.replicate 8 0xFF, s.cfg.relReadHeader.bytes,
        s.cfg.pwrReadHeader, 0⟩ (fun rx => .bytes ((rx.drop 10).take 8)) ∧
    (∀ n : Nat, n ≤ 120 → CompletesAs (.readdata n) s
      ⟨s.cfg.cmdReadData :: List.replicate n 0xFF, s.cfg.relReadData.bytes, s.cfg.pwrReadData, 0⟩
      (fun rx => .bytes ((rx.drop 10).take n)))

/-- The wire commands that are frames, each one exchange with its command byte, body, release code and
power mode (R88). That one runs on its own from IDLE, whatever `LOCK` is, and leaves `LOCK` as it was is
the model's choice (log 15), and so is that both replies are its result (log 16). -/
def Obligations.WireCommandsExchangeTheirFrames : Prop :=
  ∀ s : State, s.phase = .idle →
    (∀ h : List Byte, h.length = 8 → CompletesAs (.wireWriteHeader h) s (writeHeaderExch s h)
      (bothReplies (writeHeaderExch s h))) ∧
    CompletesAs .wireReadHeader s (readHeaderExch s) (bothReplies (readHeaderExch s)) ∧
    (∀ d : List Byte, 1 ≤ d.length → d.length ≤ 120 → CompletesAs (.wireWriteData d) s
      (writeDataExch s d) (bothReplies (writeDataExch s d))) ∧
    (∀ n : Nat, n ≤ 120 → CompletesAs (.wireReadData n) s (readDataExch s n)
      (bothReplies (readDataExch s n))) ∧
    (∀ ms : Nat, CompletesAs (.wireRun ms) s ⟨[s.cfg.cmdRun], s.cfg.relRun.bytes, true, ms⟩
      (bothReplies ⟨[s.cfg.cmdRun], s.cfg.relRun.bytes, true, ms⟩)) ∧
    (∀ ms : Nat, CompletesAs (.wireInterrupt ms) s
      ⟨[s.cfg.cmdInterrupt], s.cfg.relInterrupt.bytes, true, ms⟩
      (bothReplies ⟨[s.cfg.cmdInterrupt], s.cfg.relInterrupt.bytes, true, ms⟩)) ∧
    CompletesAs .wireReset s (resetExch s) (bothReplies (resetExch s)) ∧
    (∀ code : Code, CompletesAs (.wireWriteStatus code) s (writeStatusExch s code.val)
      (bothReplies (writeStatusExch s code.val)))

/-- `WIRE_READ_STATUS` (R84, R170): the seven-byte exchange alone; an accepted reply is decoded into
`SNAP`, a bad one is `CRC(status)`, a failure `COMM`. That it runs on its own from IDLE, whatever `LOCK`
is, and leaves `LOCK` as it was is the model's choice (log 15), and so are where it starts and that the
snapshot is its result (log 16), and that a failure leaves the status scratch as it was (log 29). -/
def Obligations.WireReadStatusExchange : Prop :=
  ∀ (s : State) (rest : List Answer), s.phase = .idle →
    (∀ rx, s.answers = [.block rx] ++ rest → GoodStatus s rx →
      exec .wireReadStatus s = .next { s with
        snap := snapshotOf s rx, statusScratch := rx
        trace := s.trace ++ [.dataBlock (s.cfg.cmdReadStatus :: List.replicate 6 0xFF) (some rx)]
        result := some (.ok (.snapshot (snapshotOf s rx))), answers := rest }) ∧
    (∀ rx, s.answers = [.block rx] ++ rest → rx.length = 7 → ¬ GoodStatus s rx →
      exec .wireReadStatus s = .next { s with
        statusScratch := rx
        trace := s.trace ++ [.dataBlock (s.cfg.cmdReadStatus :: List.replicate 6 0xFF) (some rx)]
        result := some (.err ⟨.crc, .status⟩), answers := rest }) ∧
    (s.answers = [.fail] ++ rest →
      exec .wireReadStatus s = .next { s with
        trace := s.trace ++ [.dataBlock (s.cfg.cmdReadStatus :: List.replicate 6 0xFF) none]
        result := some (.err ⟨.comm, .none⟩), answers := rest })

/-- How an operation of one exchange fails (R200, R202, R203, R204): a status bit equal to
`NOT_UNDERSTOOD_BIT` is `NOT_UNDERSTOOD`, after everything else of the exchange; two failures of the
`DataBlock` are `COMM`, after the recovery and with `SEL0` unchanged and no bit sampled. An exchange of
any caller fails so, inside a poll or a transfer too, and raises its error to whoever owns it (R250).
That a wire command run on its own fails with a result, in IDLE and with `LOCK` as it was is the model's
choice (log 15, log 16), and so is that a failed `DataBlock` leaves the reply part of the frame scratch as
it was (log 29). -/
def Obligations.FramedOperationsFail : Prop :=
  (∀ (i : Instr) (s : State) (x : Exch) (rest : List Answer), i.wf = true → framed s i = some x →
    s.phase = .idle → (locks i = true → s.lock = false) →
    (∀ r : Reply, s.answers = exchangeAnswers x r ++ rest → r.fits x →
      r.bit = s.cfg.notUnderstoodBit →
      exec i s = .next (afterExchange s x r (.err ⟨.notUnderstood, .none⟩) rest)) ∧
    (s.answers = [.fail, .fail] ++ rest →
      exec i s = .next { s with
        xCmd := x.cmd, xRel := x.rel, xPower := x.power, xMs := x.ms
        trace := s.trace ++ warnings s ++ recoveryEvents (frameSent s x)
          ++ [.dataBlock (frameSent s x) none]
        result := some (.err ⟨.comm, .none⟩), answers := rest })) ∧
  ∀ (s : State) (k : ExchCaller), s.host = [] →
    (s.phase = .blockRetry k → s.answers = [.fail] →
      step s = .next (raise k.owner ⟨.comm, .none⟩ { s with
        trace := s.trace
          ++ [.dataBlock (frameSent s ⟨s.xCmd, s.xRel, s.xPower, s.xMs⟩) none]
        answers := [] })) ∧
    (∀ power, AtBit s k power → s.answers = [.bit s.cfg.notUnderstoodBit] →
      step s = .next (raise k.owner ⟨.notUnderstood, .none⟩
        (bitTaken s power s.cfg.notUnderstoodBit)))

/-- The frame of the operations of one exchange, whatever the environment answers and wherever they
rest, in the step that issues one and in every later step of it: only `SEL0`, the frame scratch,
`PHASE`, `LOCK`, the result, the trace and the answers left may change; every fragmentation, transfer,
poll and tunable register, `MIN_READ_RT`, `SNAP` and the host port stay (R200). That a wire command runs
on its own is the model's choice (log 15). -/
def Obligations.FramedOperationsFrame : Prop :=
  (∀ (i : Instr) (s s' : State) (x : Exch), framed s i = some x → Ready s → exec i s = .next s' →
    ExchangeFrame s s') ∧
  (∀ (s s' : State) (k : ExchCaller), s.host = [] → s.phase.exchange = some k →
    ((∃ use, k = .host use) ∨ k = .wire) → step s = .next s' → ExchangeFrame s s')

/-! ### Poll loop -/

/-- `POLL` whose first status read reaches the steady state (R173, R181): it ends at once, with the
snapshot if the direction is served, else with `NO_ROOM`, `NO_HEADER` or `BAD_HEADER`; the iteration is
counted unless the sentinel was seen (R174). -/
def Obligations.PollEndsInSteadyState : Prop :=
  ∀ (s : State) (dir : Dir) (code : Int) (rx : List Byte) (rest : List Answer) (snap : Snapshot)
    (r : Result), Ready s → s.answers = statusAnswers rx ++ rest → GoodStatus s rx →
    snap = snapshotOf s rx → Steady s.cfg snap →
    ((Served dir snap ∧ r = .ok (.snapshot snap)) ∨
      (dir = .send ∧ snap.free.toNat < 8 ∧ r = .err ⟨.noRoom, .none⟩) ∨
      (dir = .receive ∧ snap.used = 0 ∧ r = .err ⟨.noHeader, .none⟩) ∨
      (dir = .receive ∧ snap.used ≠ 0 ∧ snap.used ≠ 8 ∧ r = .err ⟨.badHeader, .none⟩)) →
    exec (.poll dir code) s = .next { s with
      pollDir := dir, pollRt := clamp15 code
      pollIter := if snap.sub = s.cfg.scNeedsMoreTime then 0 else 1
      snap := snap, statusScratch := rx, trace := s.trace ++ statusEvents s rx
      result := some r, answers := rest }

/-- The arms 2 to 8 (R174 to R181, the table of R184), for a poll of any caller whose status read is
answered: the first test that holds decides, in this order; the new code, the action's first call or
error, and the recovery's arming are those of the table. In the steady state a poll of any caller that
is not served raises `NO_ROOM`, `NO_HEADER` or `BAD_HEADER`, and one of the host that is served ends with
its snapshot. -/
def Obligations.PollArmsFollowTheTable : Prop :=
  ∀ (s p : State) (c : PollCaller) (rx : List Byte), s.host = [] →
    s.phase = .statusBlock (.poll c) → s.answers = [.block rx] → GoodStatus s rx → p = polled s rx →
    (p.snap.por = true → s.porArmed = true →
      step s = .next (exchangeStarted (writeStatusExch s (min 15 s.porAdjust)) (.porWrite (.poll c))
        { p with porArmed := false, trace := p.trace ++ [.busReset] })) ∧
    (p.snap.por = true → s.porArmed = false →
      step s = .next (raise c.owner ⟨.porUncorrected, .none⟩ p)) ∧
    (p.snap.por = false →
      (p.snap.busy = true → ∀ q, q = { p with pollRt := sat15 (s.pollRt.val + 6) } →
        step s = .next (exchangeStarted (runExch s q.pollRt.val) (.pollRun c) q)) ∧
      (p.snap.busy = false →
        (p.snap.sub = s.cfg.scFirstBirthday → ∀ q, q = { p with pollRt := 6 } →
          step s = .next (exchangeStarted (writeStatusExch s 6) (.pollWrite c) q)) ∧
        (p.snap.sub ≠ s.cfg.scFirstBirthday →
          (p.snap.sub = s.cfg.scMasterErase → ∀ q, q = { p with pollRt := sat15 (s.pollRt.val + 1) } →
            step s = .next (exchangeStarted (writeStatusExch s q.pollRt.val) (.pollWrite c) q)) ∧
          (p.snap.sub ≠ s.cfg.scMasterErase →
            (p.snap.cnc = true →
              ∀ q, q = { p with pollRt := if s.pollRt = 0 then 2 else sat15 (2 * s.pollRt.val) } →
              step s = .next (exchangeStarted (writeStatusExch s q.pollRt.val) (.pollWrite c) q)) ∧
            (p.snap.cnc = false →
              (p.snap.sub = s.cfg.scResponseIncomplete →
                step s = .next (exchangeStarted (runExch s 0) (.pollRun c) p)) ∧
              (p.snap.sub ≠ s.cfg.scResponseIncomplete → p.snap.sub = s.cfg.scVmIncomplete →
                p.snap.used = 0 →
                step s = .next (exchangeStarted (runExch s 0) (.pollBump c) p))))))) ∧
    (Steady s.cfg p.snap →
      (s.pollDir = .send → p.snap.free.toNat < 8 →
        step s = .next (raise c.owner ⟨.noRoom, .none⟩ p)) ∧
      (s.pollDir = .receive → p.snap.used = 0 →
        step s = .next (raise c.owner ⟨.noHeader, .none⟩ p)) ∧
      (s.pollDir = .receive → p.snap.used ≠ 0 → p.snap.used ≠ 8 →
        step s = .next (raise c.owner ⟨.badHeader, .none⟩ p)) ∧
      (c = .host → Served s.pollDir p.snap →
        step s = .next { p with
          result := some (.ok (.snapshot p.snap)), phase := .idle, lock := false }))

/-- How the poll loop goes on when a call of an arm is answered (R173, R180, R182, R183). Not understood:
`NOT_UNDERSTOOD`, raised to whoever owns the poll (R203, R204, R250). Understood: a write status is
followed by the run of the poll's code, or of the recovery's; a run by the next iteration, after the
bump of `MIN_READ_RT` in arm 7; after the 200th counted iteration by `UNRECOVERABLE` with no further
call. -/
def Obligations.PollGoesOnAfterItsCalls : Prop :=
  ∀ (s p : State) (c : PollCaller) (power b : Bool), s.host = [] → s.answers = [.bit b] →
    p = bitTaken s power b →
    (b = s.cfg.notUnderstoodBit → ∀ k ∈ ([.pollWrite c, .porWrite (.poll c), .pollRun c,
        .porRun (.poll c), .pollBump c] : List ExchCaller), AtBit s k power →
      step s = .next (raise c.owner ⟨.notUnderstood, .none⟩ p)) ∧
    (b ≠ s.cfg.notUnderstoodBit →
    (AtBit s (.pollWrite c) power →
      step s = .next (exchangeStarted (runExch s s.pollRt.val) (.pollRun c) p)) ∧
    (AtBit s (.porWrite (.poll c)) power →
      step s = .next (exchangeStarted (runExch s (min 15 s.porAdjust)) (.porRun (.poll c)) p)) ∧
    (AtBit s (.pollRun c) power ∨ AtBit s (.porRun (.poll c)) power →
      step s = .next (if s.pollIter < 200
        then { p with pollIter := s.pollIter + 1, phase := .select (.poll c) }
        else raise c.owner ⟨.unrecoverable, .none⟩ p)) ∧
    (AtBit s (.pollBump c) power → ∀ q, q = { p with minReadRt := sat15 (s.minReadRt.val + 1) } →
      step s = .next (if s.pollIter < 200
        then { q with pollIter := s.pollIter + 1, phase := .select (.poll c) }
        else raise c.owner ⟨.unrecoverable, .none⟩ q)))

/-- A device that is always busy (R182, R176): the poll fails with `UNRECOVERABLE` after exactly 200
status reads and 200 runs, each read followed by its run, with code 15 and the count at 200. -/
def Obligations.AlwaysBusyFailsAfter200 : Prop :=
  ∀ (s : State) (dir : Dir) (code : Int) (n : Nat) (rx frx : List Byte) (smart b : Bool)
    (rest : List Answer), Ready s →
    s.answers = (List.replicate n
      [.selected true, .block rx, .block frx, .smart smart, .bit b]).flatten ++ rest → 200 ≤ n →
    GoodStatus s rx → (snapshotOf s rx).por = false → (snapshotOf s rx).busy = true →
    (snapshotOf s rx).sub ≠ s.cfg.scNeedsMoreTime → frx.length = 12 → b ≠ s.cfg.notUnderstoodBit →
    ∃ (s' : State) (es : List Event), exec (.poll dir code) s = .next s' ∧
      s'.result = some (.err ⟨.unrecoverable, .none⟩) ∧ s'.phase = .idle ∧ s'.lock = false ∧
      s'.pollIter = 200 ∧ s'.pollRt = 15 ∧ s'.trace = s.trace ++ es ∧
      sent es = (List.replicate 200 [statusFrame s.cfg, frameSent s (runExch s 0)]).flatten ∧
      (sleeps es).length = 200 ∧ (sleeps es).drop 3 = List.replicate 197 (waitOf s 15)

/-- Escalation (R178): three statuses with "command not complete" take the poll's code from 0 to 2, 4
and 8: these are the codes written to the device and the codes of the waits, and a clean status then
ends the poll. -/
def Obligations.CommandNotCompleteEscalates : Prop :=
  ∀ (s : State) (dir : Dir) (code : Int) (rx clean : List Byte) (w1 w2 w3 r1 r2 r3 : Reply)
    (rest : List Answer), Ready s → code ≤ 0 →
    GoodStatus s rx → (snapshotOf s rx).por = false → (snapshotOf s rx).busy = false →
    (snapshotOf s rx).sub ≠ s.cfg.scFirstBirthday → (snapshotOf s rx).sub ≠ s.cfg.scMasterErase →
    (snapshotOf s rx).cnc = true →
    GoodStatus s clean → Steady s.cfg (snapshotOf s clean) → Served dir (snapshotOf s clean) →
    w1.fits (writeStatusExch s 2) → w2.fits (writeStatusExch s 4) → w3.fits (writeStatusExch s 8) →
    r1.fits (runExch s 2) → r2.fits (runExch s 4) → r3.fits (runExch s 8) →
    (∀ r ∈ [w1, w2, w3, r1, r2, r3], r.retried = false ∧ r.bit ≠ s.cfg.notUnderstoodBit) →
    s.cfg.pwrWriteStatus = false →
    s.answers =
      statusAnswers rx ++ exchangeAnswers (writeStatusExch s 2) w1 ++ exchangeAnswers (runExch s 2) r1
      ++ statusAnswers rx ++ exchangeAnswers (writeStatusExch s 4) w2
      ++ exchangeAnswers (runExch s 4) r2
      ++ statusAnswers rx ++ exchangeAnswers (writeStatusExch s 8) w3
      ++ exchangeAnswers (runExch s 8) r3 ++ statusAnswers clean ++ rest →
    ∃ (s' : State) (es : List Event), exec (.poll dir code) s = .next s' ∧
      s'.result = some (.ok (.snapshot (snapshotOf s clean))) ∧ s'.pollRt = 8 ∧
      s'.answers = rest ∧ s'.trace = s.trace ++ es ∧
      sent es = [statusFrame s.cfg, frameSent s (writeStatusExch s 2), frameSent s (runExch s 2),
        statusFrame s.cfg, frameSent s (writeStatusExch s 4), frameSent s (runExch s 4),
        statusFrame s.cfg, frameSent s (writeStatusExch s 8), frameSent s (runExch s 8),
        statusFrame s.cfg] ∧
      sleeps es = [waitOf s 2, waitOf s 4, waitOf s 8]

/-- What a poll that succeeded returns (R185 e, R173), whatever the environment answered on the way: the
snapshot in `SNAP`, with the direction served and `por`, `busy` and `cnc` clear. Whether it ends in the
step that issued it or in a later one. -/
def Obligations.SuccessfulPollIsServed : Prop :=
  ∀ (s s' : State) (dir : Dir) (v : Value),
    ((Ready s ∧ ∃ code, exec (.poll dir code) s = .next s') ∨
      (s.host = [] ∧ s.phase.poll? = some .host ∧ dir = s.pollDir ∧ step s = .next s')) →
    s'.phase = .idle → s'.result = some (.ok v) →
    v = .snapshot s'.snap ∧ Served dir s'.snap ∧
      s'.snap.por = false ∧ s'.snap.busy = false ∧ s'.snap.cnc = false

/-- The frames of `READSTATUS`, `WIRE_READ_STATUS`, `PORRECOVER` and `POLL`, whatever the environment
answers, in the step that issues one and in every later step of it. A status read writes `SNAP` and its
scratch only (R170); a recovery `SEL0` and the frame scratch only (R183); a poll its own registers,
`SNAP`, `POR_ARMED`, `MIN_READ_RT`, `SEL0` and the scratch (R173). Beside these the lock (never that of
`PORRECOVER`), phase, result, trace and answers. That `PORRECOVER` and the wire command run on their own
is the model's choice (log 15). -/
def Obligations.PollFrame : Prop :=
  (∀ (s s' : State) (i : Instr), Ready s → exec i s = .next s' →
    (i = .readstatus ∨ i = .wireReadStatus → StatusFrame s s') ∧
    (i = .porrecover → RecoverFrame s s') ∧
    (∀ dir code, i = .poll dir code → PollLoopFrame s s')) ∧
  (∀ s s' : State, s.host = [] → step s = .next s' →
    (s.phase.statusRead = some .host ∨ s.phase.statusRead = some .wire → StatusFrame s s') ∧
    (s.phase.exchange = some (.porWrite .alone) ∨ s.phase.exchange = some (.porRun .alone) →
      RecoverFrame s s') ∧
    (s.phase.poll? = some .host → PollLoopFrame s s'))

/-- `PORRECOVER` (R183, R93) run on its own: a bus reset, a write status and a run, both with the code
`MIN + POR_ADJUST`; it gives no value and changes nothing but the scratch, `SEL0`, the trace and the
result. That it runs on its own from IDLE, whatever `LOCK` is, and ends there with a result is the model's
choice (log 15). -/
def Obligations.PorrecoverRunsItsThreeCalls : Prop :=
  ∀ (s m : State) (w r : Reply) (rest : List Answer) (ws rn : Exch), s.phase = .idle →
    ws = writeStatusExch s (min 15 s.porAdjust) → rn = runExch s (min 15 s.porAdjust) →
    w.fits ws → r.fits rn → w.bit ≠ s.cfg.notUnderstoodBit → r.bit ≠ s.cfg.notUnderstoodBit →
    s.answers = exchangeAnswers ws w ++ exchangeAnswers rn r ++ rest →
    m = { s with
      sel0 := w.rx.getD 0 0
      trace := s.trace ++ [.busReset] ++ exchangeEvents s ws w } →
    exec .porrecover s = .next (afterExchange m rn r (.ok .none) rest)

/-! ### Transfer -/

/-- The transfers that end before anything is sent (R231, R232): at the wrong speed, with the correction
armed and nothing else touched; and with an empty or oversized payload, at once and not retried. The
speed read is the one event of both. That `LAST_ERR` stays none after `WRONG_SPEED` is read from the
pseudocode (log 21). -/
def Obligations.TransferRefusals : Prop :=
  ∀ (s : State) (payload : List Byte) (code : Int) (rest : List Answer), Ready s →
    (s.answers = [.speed .regular] ++ rest →
      exec (.transfer payload code) s = .next { s with
        lastErr := none, porArmed := true, porAdjust := 0, opPayload := payload
        trace := s.trace ++ [.speedGet .regular]
        result := some (.err ⟨.wrongSpeed, .none⟩), answers := rest }) ∧
    (s.answers = [.speed .overdrive] ++ rest → payload.length = 0 ∨ 16384 < payload.length →
      exec (.transfer payload code) s = .next { s with
        lastErr := some ⟨.invalidPayload, .none⟩, porArmed := true, porAdjust := 0
        opPayload := payload, rt := clamp15 code, attempt := 1, inReceive := false
        fragValid := false, trace := s.trace ++ [.speedGet .overdrive]
        result := some (.err ⟨.invalidPayload, .none⟩), answers := rest })

/-- The phases of the send and receive loops (R233, R234, R237), each when its exchange is answered. Not
understood: `NOT_UNDERSTOOD` goes to step 6 (R236). Understood: the next call that it makes, with its
arguments, or the end of a loop. -/
def Obligations.TransferPhasesFollowTheTable : Prop :=
  ∀ (s p : State) (power b : Bool), s.host = [] → s.answers = [.bit b] →
    p = bitTaken s power b →
    (b = s.cfg.notUnderstoodBit → ∀ k, k.owner = .transfer → AtBit s k power →
      step s = .next (raise .transfer ⟨.notUnderstood, .none⟩ p)) ∧
    (b ≠ s.cfg.notUnderstoodBit →
    (AtBit s .tSHdr power → s.fragValid = true → s.curLen ≠ 0 →
      step s = .next (exchangeStarted
        (writeDataExch s ((s.pay.drop s.curOff).take s.curLen)) .tSData p)) ∧
    (AtBit s .tSData power →
      step s = .next (exchangeStarted
        (writeStatusExch s (if s.more then 0 else s.rt.val)) .tSWs p)) ∧
    (AtBit s .tSWs power →
      step s = .next (exchangeStarted (runExch s (if s.more then 0 else s.rt.val)) .tSRun p)) ∧
    (AtBit s .tSRun power → s.more = true →
      step s = .next (pollStarted .sendLoop .send 0 p)) ∧
    (AtBit s .tSRun power → s.more = false →
      step s = .next (pollStarted .receiveLoop .receive s.rt { p with inReceive := true })) ∧
    (AtBit s .tRHdr power → ∀ (h : List Byte) (n : Byte), s.xCmd.length = 9 →
      h = (s.xReply.drop 10).take 8 → h[1]? = some n →
      step s = .next (if n.toNat ≤ 120 then exchangeStarted (readDataExch s n.toNat) (.tRData h) p
        else raise .transfer ⟨.badHeader, .none⟩ p)) ∧
    (∀ (h d : List Byte) (done : Bool) (t : State), AtBit s (.tRData h) power →
      s.xCmd.length = 1 + (byteAt h 1).toNat → d = (s.xReply.drop 10).take (byteAt h 1).toNat →
      acceptBlock h d s.snap p = .ok (done, t) →
      step s = .next (if done then
        { t with result := some (.ok (.bytes t.acc)), phase := .idle, lock := false }
        else exchangeStarted (writeStatusExch s s.minReadRt.val) .tRWs t)) ∧
    (∀ (h d : List Byte) (e : Error), AtBit s (.tRData h) power →
      s.xCmd.length = 1 + (byteAt h 1).toNat → d = (s.xReply.drop 10).take (byteAt h 1).toNat →
      acceptBlock h d s.snap p = .error e → step s = .next (raise .transfer e p)) ∧
    (AtBit s .tRWs power →
      step s = .next (exchangeStarted (runExch s s.minReadRt.val) .tRRun p)) ∧
    (AtBit s .tRRun power →
      step s = .next (pollStarted .receiveLoop .receive s.rt p)))

/-- What Transfer does with a poll that succeeds (R233, R234): in the send loop it forms the next header
and writes it, in the receive loop it reads a header. -/
def Obligations.TransferPollsLeadOn : Prop :=
  ∀ (s p : State) (rx : List Byte), s.host = [] → s.answers = [.block rx] → GoodStatus s rx →
    p = polled s rx → Steady s.cfg p.snap → Served s.pollDir p.snap →
    (∀ (h : List Byte) (t : State), s.phase = .statusBlock (.poll .sendLoop) →
      nextHeader p = .ok (h, t) →
      step s = .next (exchangeStarted (writeHeaderExch s h) .tSHdr t)) ∧
    (s.phase = .statusBlock (.poll .receiveLoop) →
      step s = .next (exchangeStarted (readHeaderExch s) .tRHdr p))

/-- Step 6 (R236, R250): an error inside steps 2 to 5 that is fatal or `INVALID_PAYLOAD` ends the
transfer at once; any other makes the increments and the renegotiation first, and then ends the third
attempt with the error unchanged, or starts the next attempt from the operand with its poll. The
fragmentation registers start clean, `POR_ARMED` and the tunables do not. That `POR_ARMED` stays after
the third failure is where the spec's own texts differ (log 28). -/
def Obligations.TransferFailureHandling : Prop :=
  ∀ (s u : State) (e : Error),
    u = { s with
      lastErr := some e, rt := sat15 (s.rt.val + 1), porAdjust := s.porAdjust + 1
      minReadRt := if s.inReceive then sat15 (s.minReadRt.val + 1) else s.minReadRt
      trace := s.trace ++ [.renegotiateSpeed] } →
    (e.code = .notSelectable ∨ e.code = .porUncorrected ∨ e.code = .unrecoverable ∨
        e.code = .invalidPayload →
      raise .transfer e s
        = { s with lastErr := some e, result := some (.err e), phase := .idle, lock := false }) ∧
    (e.code = .crc ∨ e.code = .noRoom ∨ e.code = .noHeader ∨ e.code = .badHeader ∨
        e.code = .notUnderstood ∨ e.code = .comm →
      (s.attempt = 3 →
        raise .transfer e s = { u with result := some (.err e), phase := .idle, lock := false }) ∧
      (s.attempt ≠ 3 → 1 ≤ s.opPayload.length → s.opPayload.length ≤ 16384 →
        raise .transfer e s = { u with
          attempt := s.attempt + 1, inReceive := false
          pay := s.opPayload, plen := s.opPayload.length, cursor := 0, seq := 0, chk := 0
          more := true, curOff := 0, curLen := 0, acc := [], fragValid := true
          pollDir := .send, pollRt := 0, pollIter := 1, phase := .select (.poll .sendLoop) }))

/-- One block each way (R230 to R235): a payload of 1 to 120 bytes, a device that is ready to receive it,
then shows one complete reply block, and understands every command. The transfer ends with the reply
block's data less three bytes, in one attempt; it has sent the header and the data of the one final
block, the caller's code in a write status and a run, and the two reads, in that order. Its waits are that
of the run, and one of 0 ms for each header, data or status command that the configuration puts in power
mode (R200, R203). -/
def Obligations.TransferOneBlockEachWay : Prop :=
  ∀ (s : State) (payload : List Byte) (code : Int) (st1 st2 hdr header data : List Byte) (n : Byte)
    (wh wd ws rn rh rd : Reply) (rest : List Answer), Ready s →
    1 ≤ payload.length → payload.length ≤ 120 →
    hdr = nextHeaderBytes (fragInit payload s).1 →
    GoodStatus s st1 → Steady s.cfg (snapshotOf s st1) → Served .send (snapshotOf s st1) →
    GoodStatus s st2 → Steady s.cfg (snapshotOf s st2) → Served .receive (snapshotOf s st2) →
    (snapshotOf s st2).sub = s.cfg.scCommandComplete →
    header = (rh.rx.drop 10).take 8 → header[1]? = some n → n.toNat ≤ 120 →
    data = (rd.rx.drop 10).take n.toNat →
    (crc16 s.cfg s.cfg.blockCrcSeed ([n] ++ data ++ (header.drop 4).take 2) = goodResidual s.cfg ∨
      crc16 s.cfg s.cfg.blockCrcSeed ([n] ++ data ++ (header.drop 4).take 2)
        ^^^ correction s.corr n.toNat = goodResidual s.cfg) →
    wh.fits (writeHeaderExch s hdr) → wd.fits (writeDataExch s payload) →
    ws.fits (writeStatusExch s (clamped code)) → rn.fits (runExch s (clamped code)) →
    rh.fits (readHeaderExch s) → rd.fits (readDataExch s n.toNat) →
    (∀ r ∈ [wh, wd, ws, rn, rh, rd], r.retried = false ∧ r.bit ≠ s.cfg.notUnderstoodBit) →
    s.answers = [.speed .overdrive] ++ statusAnswers st1
      ++ exchangeAnswers (writeHeaderExch s hdr) wh ++ exchangeAnswers (writeDataExch s payload) wd
      ++ exchangeAnswers (writeStatusExch s (clamped code)) ws
      ++ exchangeAnswers (runExch s (clamped code)) rn ++ statusAnswers st2
      ++ exchangeAnswers (readHeaderExch s) rh ++ exchangeAnswers (readDataExch s n.toNat) rd
      ++ rest →
    ∃ (s' : State) (es : List Event), exec (.transfer payload code) s = .next s' ∧
      s'.result = some (.ok (.bytes (data.drop 3))) ∧ s'.phase = .idle ∧ s'.lock = false ∧
      s'.answers = rest ∧ s'.attempt = 1 ∧ s'.rt = clamp15 code ∧ s'.porArmed = true ∧
      s'.porAdjust = 0 ∧ s'.minReadRt = s.minReadRt ∧ s'.acc = data.drop 3 ∧
      s'.trace = s.trace ++ es ∧
      sent es = [statusFrame s.cfg, frameSent s (writeHeaderExch s hdr),
        frameSent s (writeDataExch s payload), frameSent s (writeStatusExch s (clamped code)),
        frameSent s (runExch s (clamped code)), statusFrame s.cfg, frameSent s (readHeaderExch s),
        frameSent s (readDataExch s n.toNat)] ∧
      sleeps es = ([writeHeaderExch s hdr, writeDataExch s payload, writeStatusExch s (clamped code),
        runExch s (clamped code), readHeaderExch s, readDataExch s n.toNat].map Exch.waits).flatten

/-- How a transfer may end (R158, R230, R239 g): from a state with the invariant, one that ends in this
step ends with the accumulator of its last attempt, or with an error that is neither `ILLEGAL_OP`, nor
`RANGE`, nor `ORDER`. Whether it was issued in this step or goes on in it. -/
def Obligations.TransferNeverEndsInOrder : Prop :=
  ∀ (s s' : State), Inv s →
    (s.phase.owner = some .transfer ∧ s.host = [] ∧ step s = .next s' ∨
      Ready s ∧ ∃ payload code, exec (.transfer payload code) s = .next s') →
    s'.phase = .idle →
    s'.result = some (.ok (.bytes s'.acc)) ∨
      ∃ e, s'.result = some (.err e) ∧ e.code ≠ .illegalOp ∧ e.code ≠ .range ∧ e.code ≠ .order

/-- `SpeedGet` is the first event of every transfer and occurs once, however far the transfer gets and
over however many steps (R239 a, R231): issued with no answer at hand it waits there and has made no
event; the step in which it is answered appends it first and no other; every later step of a transfer,
and of any other operation, appends none. -/
def Obligations.SpeedIsReadOnce : Prop :=
  (∀ (s s' : State) (payload : List Byte) (code : Int), Ready s →
    exec (.transfer payload code) s = .next s' →
    (s.answers = [] → s'.trace = s.trace ∧ s'.phase = .tSpeed code) ∧
    (s.answers ≠ [] → ∃ (sp : Speed) (es : List Event),
      s'.trace = s.trace ++ [.speedGet sp] ++ es ∧ es.all (fun e => !e.isSpeedGet) = true)) ∧
  (∀ s s' : State, s.host = [] → step s = .next s' →
    (∀ code, s.phase = .tSpeed code → s.answers ≠ [] → ∃ (sp : Speed) (es : List Event),
      s'.trace = s.trace ++ [.speedGet sp] ++ es ∧ es.all (fun e => !e.isSpeedGet) = true) ∧
    ((∀ code, s.phase ≠ .tSpeed code) → (∀ code, s'.phase ≠ .tSpeed code) ∧
      ∃ es : List Event, s'.trace = s.trace ++ es ∧ es.all (fun e => !e.isSpeedGet) = true))

/-- What no operation changes (R21, R23, R24, R72): the configuration, the address and the correction
table by none; `T_BASE` by all but `SETBASE`, `T_INCR` by all but `SETINCR`; and the requests at the
host port by none that runs at once. Every later step of an operation keeps all of these and the payload
operand. -/
def Obligations.OperationsKeepConfiguration : Prop :=
  (∀ (s s' : State) (i : Instr), exec i s = .next s' →
    s'.cfg = s.cfg ∧ s'.addr = s.addr ∧ s'.corr = s.corr ∧
    ((∀ ms, i ≠ .setbase ms) → s'.tBase = s.tBase) ∧
    ((∀ ms, i ≠ .setincr ms) → s'.tIncr = s.tIncr) ∧
    (Ready s → s'.host = s.host)) ∧
  (∀ s s' : State, s.host = [] → step s = .next s' →
    s'.cfg = s.cfg ∧ s'.addr = s.addr ∧ s'.corr = s.corr ∧ s'.tBase = s.tBase ∧
    s'.tIncr = s.tIncr ∧ s'.opPayload = s.opPayload ∧ s'.host = s.host)

/-! ### Reset and invariants -/

/-- What reset leaves (R35). `SNAP` and `ADDR` are not named: the rule gives them no value (log 4,
log 5). -/
def Obligations.ResetLeavesTheListedValues : Prop :=
  ∀ s : State, s = State.reset →
    s.tBase = 63 ∧ s.tIncr = 250 ∧ s.minReadRt = 0 ∧ s.corr = corrTable s.cfg ∧ s.lock = false ∧
    s.sel0 = s.cfg.selectCmd ∧ s.phase = .idle ∧ s.fragValid = false ∧ s.more = false ∧
    s.pay = [] ∧ s.acc = [] ∧ s.plen = 0 ∧ s.cursor = 0 ∧ s.seq = 0 ∧ s.chk = 0 ∧ s.curOff = 0 ∧
    s.curLen = 0 ∧ s.rt = 0 ∧ s.attempt = 0 ∧ s.porAdjust = 0 ∧ s.pollRt = 0 ∧ s.pollIter = 0 ∧
    s.porArmed = false ∧ s.inReceive = false ∧ s.lastErr = none ∧ s.pollDir = .send

/-- Block reset (R290): taken in IDLE, it leaves every register as after reset, for the address the host
gives, and makes no event; anywhere else the model refuses it. That the requests and answers still to
come and the record of the events stay is the model's choice (log 17). -/
def Obligations.BlockResetOnlyInIdle : Prop :=
  ∀ (s : State) (addr : Addr) (rest : List Request), s.host = .reset addr :: rest →
    (s.phase = .idle → step s = .next { State.initial s.cfg addr with
      host := rest, answers := s.answers, trace := s.trace }) ∧
    (s.phase ≠ .idle → step s = .refused .resetInOperation)

/-- The invariant holds at reset. -/
def Obligations.InvHoldsAtReset : Prop := Inv State.reset

/-- Every step keeps the invariant, whatever the host asks and the environment answers: legal tunables,
the table intact, the counters within their ranges, the fragmentation registers consistent, the lock set
exactly while an operation runs, the send side before the receive side (R21, R23, R25, R26, R28, R31,
R157, R237). -/
def Obligations.StepKeepsInv : Prop :=
  ∀ s s' : State, Inv s → step s = .next s' → Inv s'

/-- History only grows: a step appends events to the trace (R69), and never lowers `MIN_READ_RT` unless
it takes a block reset (R22). -/
def Obligations.TraceAndMinReadRtOnlyGrow : Prop :=
  ∀ s s' : State, step s = .next s' →
    (∃ es, s'.trace = s.trace ++ es) ∧
    ((∀ addr rest, s.host ≠ .reset addr :: rest) → s.minReadRt ≤ s'.minReadRt)

/-- `POR_ARMED` is set by `TRANSFER` only (R29, R175): a step that sets it took a transfer from the host
port. -/
def Obligations.OnlyTransferArms : Prop :=
  ∀ s s' : State, step s = .next s' → s.porArmed = false → s'.porArmed = true →
    ∃ w rest payload code, s.host = .op w :: rest ∧ decodeHost w = .ok (.transfer payload code) ∧
      Ready s

/-- Every exit of a host operation, normal or by error, clears `LOCK` and goes to IDLE with a result; an
operation that waits for an answer holds `LOCK` (R31, R71, R250). An error raised outside a transfer is
that exit, and undoes nothing (R250). -/
def Obligations.EveryExitReleasesLock : Prop :=
  (∀ (s s' : State) (i : Instr), locks i = true → i.wf = true → Ready s → exec i s = .next s' →
    (s'.phase = .idle → s'.lock = false ∧ s'.result ≠ none) ∧
    (s'.phase ≠ .idle → s'.lock = true)) ∧
  (∀ s s' : State, s.phase ≠ .idle → s.lock = true → s.phase.owner ≠ some .caller → s.host = [] →
    step s = .next s' →
    (s'.phase = .idle → s'.lock = false ∧ s'.result ≠ none) ∧
    (s'.phase ≠ .idle → s'.lock = true)) ∧
  (∀ (e : Error) (s : State), raise .host e s
    = { s with result := some (.err e), phase := .idle, lock := false })

/-- When a step stops (R62, R63, R73, R290, U5, U7): never for a state and an answer that the spec
allows. With one answer at hand and nothing at the host port, the step goes on exactly if no call is
being made or the answer is one the call can have; a failure of a call that cannot fail is refused by
name, anything else is the fault `wrongAnswer`. No step stops for another reason than those, but for a
block reset inside an operation. And a step with more answers at hand is the steps that take them in
turn (R9; log 8), so that what is said of one answer holds of every list of them. -/
def Obligations.StepsStopOnlyByName : Prop :=
  (∀ (s : State) (a : Answer), s.host = [] → s.answers = [a] →
    (s.phase = .idle ∨ fits s a = true → ∃ s', step s = .next s') ∧
    (s.phase ≠ .idle → fits s a = false → a = .fail → step s = .refused .callFailed) ∧
    (s.phase ≠ .idle → fits s a = false → a ≠ .fail → step s = .fault .wrongAnswer)) ∧
  (∀ (s : State) (f : Fault), step s = .fault f → f = .wrongAnswer) ∧
  (∀ (s : State) (r : Refusal), step s = .refused r →
    r = .callFailed ∨
      (r = .resetInOperation ∧ s.phase ≠ .idle ∧ ∃ addr rest, s.host = .reset addr :: rest)) ∧
  (∀ (s s' : State) (as bs : List Answer), s.host = [] → step { s with answers := as } = .next s' →
    step { s with answers := as ++ bs } = step { s' with answers := s'.answers ++ bs })

/-- What the block puts on the bus (R81, R84, R91): in a state with the invariant every `DataBlock` of a
step is a status exchange, or a frame of 12 to 133 bytes whose first byte is `SELECT_CMD`. -/
def Obligations.BusCarriesFramesOnly : Prop :=
  ∀ (s s' : State), Inv s → step s = .next s' →
    ∃ es, s'.trace = s.trace ++ es ∧ ∀ e ∈ es, BusShape s.cfg e
end

