-- ==== Sys2Proof/Laws/State.lean ====
section
/-! SUPPORT. One lemma per field for each named update of the state (Machine/Ops.lean), so that no later
proof unfolds a record update. -/

namespace Sys2Proof.Machine

/-! ### Events appended -/

section
variable (es : List Event) (s : State)

@[simp] theorem emit_cfg : (emit es s).cfg = s.cfg := rfl
@[simp] theorem emit_tBase : (emit es s).tBase = s.tBase := rfl
@[simp] theorem emit_tIncr : (emit es s).tIncr = s.tIncr := rfl
@[simp] theorem emit_corr : (emit es s).corr = s.corr := rfl
@[simp] theorem emit_minReadRt : (emit es s).minReadRt = s.minReadRt := rfl
@[simp] theorem emit_addr : (emit es s).addr = s.addr := rfl
@[simp] theorem emit_lock : (emit es s).lock = s.lock := rfl
@[simp] theorem emit_sel0 : (emit es s).sel0 = s.sel0 := rfl
@[simp] theorem emit_pay : (emit es s).pay = s.pay := rfl
@[simp] theorem emit_plen : (emit es s).plen = s.plen := rfl
@[simp] theorem emit_cursor : (emit es s).cursor = s.cursor := rfl
@[simp] theorem emit_seq : (emit es s).seq = s.seq := rfl
@[simp] theorem emit_chk : (emit es s).chk = s.chk := rfl
@[simp] theorem emit_more : (emit es s).more = s.more := rfl
@[simp] theorem emit_curOff : (emit es s).curOff = s.curOff := rfl
@[simp] theorem emit_curLen : (emit es s).curLen = s.curLen := rfl
@[simp] theorem emit_acc : (emit es s).acc = s.acc := rfl
@[simp] theorem emit_fragValid : (emit es s).fragValid = s.fragValid := rfl
@[simp] theorem emit_rt : (emit es s).rt = s.rt := rfl
@[simp] theorem emit_attempt : (emit es s).attempt = s.attempt := rfl
@[simp] theorem emit_inReceive : (emit es s).inReceive = s.inReceive := rfl
@[simp] theorem emit_porArmed : (emit es s).porArmed = s.porArmed := rfl
@[simp] theorem emit_porAdjust : (emit es s).porAdjust = s.porAdjust := rfl
@[simp] theorem emit_lastErr : (emit es s).lastErr = s.lastErr := rfl
@[simp] theorem emit_pollDir : (emit es s).pollDir = s.pollDir := rfl
@[simp] theorem emit_pollRt : (emit es s).pollRt = s.pollRt := rfl
@[simp] theorem emit_pollIter : (emit es s).pollIter = s.pollIter := rfl
@[simp] theorem emit_snap : (emit es s).snap = s.snap := rfl
@[simp] theorem emit_phase : (emit es s).phase = s.phase := rfl
@[simp] theorem emit_opPayload : (emit es s).opPayload = s.opPayload := rfl
@[simp] theorem emit_xCmd : (emit es s).xCmd = s.xCmd := rfl
@[simp] theorem emit_xRel : (emit es s).xRel = s.xRel := rfl
@[simp] theorem emit_xPower : (emit es s).xPower = s.xPower := rfl
@[simp] theorem emit_xMs : (emit es s).xMs = s.xMs := rfl
@[simp] theorem emit_xReply : (emit es s).xReply = s.xReply := rfl
@[simp] theorem emit_statusScratch : (emit es s).statusScratch = s.statusScratch := rfl
@[simp] theorem emit_result : (emit es s).result = s.result := rfl
@[simp] theorem emit_trace : (emit es s).trace = s.trace ++ es := rfl
@[simp] theorem emit_host : (emit es s).host = s.host := rfl
@[simp] theorem emit_answers : (emit es s).answers = s.answers := rfl

end

/-! ### A result given -/

section
variable (r : Result) (s : State)

@[simp] theorem giveResult_cfg : (giveResult r s).cfg = s.cfg := rfl
@[simp] theorem giveResult_tBase : (giveResult r s).tBase = s.tBase := rfl
@[simp] theorem giveResult_tIncr : (giveResult r s).tIncr = s.tIncr := rfl
@[simp] theorem giveResult_corr : (giveResult r s).corr = s.corr := rfl
@[simp] theorem giveResult_minReadRt : (giveResult r s).minReadRt = s.minReadRt := rfl
@[simp] theorem giveResult_addr : (giveResult r s).addr = s.addr := rfl
@[simp] theorem giveResult_lock : (giveResult r s).lock = s.lock := rfl
@[simp] theorem giveResult_sel0 : (giveResult r s).sel0 = s.sel0 := rfl
@[simp] theorem giveResult_pay : (giveResult r s).pay = s.pay := rfl
@[simp] theorem giveResult_plen : (giveResult r s).plen = s.plen := rfl
@[simp] theorem giveResult_cursor : (giveResult r s).cursor = s.cursor := rfl
@[simp] theorem giveResult_seq : (giveResult r s).seq = s.seq := rfl
@[simp] theorem giveResult_chk : (giveResult r s).chk = s.chk := rfl
@[simp] theorem giveResult_more : (giveResult r s).more = s.more := rfl
@[simp] theorem giveResult_curOff : (giveResult r s).curOff = s.curOff := rfl
@[simp] theorem giveResult_curLen : (giveResult r s).curLen = s.curLen := rfl
@[simp] theorem giveResult_acc : (giveResult r s).acc = s.acc := rfl
@[simp] theorem giveResult_fragValid : (giveResult r s).fragValid = s.fragValid := rfl
@[simp] theorem giveResult_rt : (giveResult r s).rt = s.rt := rfl
@[simp] theorem giveResult_attempt : (giveResult r s).attempt = s.attempt := rfl
@[simp] theorem giveResult_inReceive : (giveResult r s).inReceive = s.inReceive := rfl
@[simp] theorem giveResult_porArmed : (giveResult r s).porArmed = s.porArmed := rfl
@[simp] theorem giveResult_porAdjust : (giveResult r s).porAdjust = s.porAdjust := rfl
@[simp] theorem giveResult_lastErr : (giveResult r s).lastErr = s.lastErr := rfl
@[simp] theorem giveResult_pollDir : (giveResult r s).pollDir = s.pollDir := rfl
@[simp] theorem giveResult_pollRt : (giveResult r s).pollRt = s.pollRt := rfl
@[simp] theorem giveResult_pollIter : (giveResult r s).pollIter = s.pollIter := rfl
@[simp] theorem giveResult_snap : (giveResult r s).snap = s.snap := rfl
@[simp] theorem giveResult_phase : (giveResult r s).phase = s.phase := rfl
@[simp] theorem giveResult_opPayload : (giveResult r s).opPayload = s.opPayload := rfl
@[simp] theorem giveResult_xCmd : (giveResult r s).xCmd = s.xCmd := rfl
@[simp] theorem giveResult_xRel : (giveResult r s).xRel = s.xRel := rfl
@[simp] theorem giveResult_xPower : (giveResult r s).xPower = s.xPower := rfl
@[simp] theorem giveResult_xMs : (giveResult r s).xMs = s.xMs := rfl
@[simp] theorem giveResult_xReply : (giveResult r s).xReply = s.xReply := rfl
@[simp] theorem giveResult_statusScratch : (giveResult r s).statusScratch = s.statusScratch := rfl
@[simp] theorem giveResult_result : (giveResult r s).result = some r := rfl
@[simp] theorem giveResult_trace : (giveResult r s).trace = s.trace := rfl
@[simp] theorem giveResult_host : (giveResult r s).host = s.host := rfl
@[simp] theorem giveResult_answers : (giveResult r s).answers = s.answers := rfl

end

/-! ### The end of an operation -/

section
variable (o : Owner) (r : Result) (s : State)

@[simp] theorem endOp_cfg : (endOp o r s).cfg = s.cfg := rfl
@[simp] theorem endOp_tBase : (endOp o r s).tBase = s.tBase := rfl
@[simp] theorem endOp_tIncr : (endOp o r s).tIncr = s.tIncr := rfl
@[simp] theorem endOp_corr : (endOp o r s).corr = s.corr := rfl
@[simp] theorem endOp_minReadRt : (endOp o r s).minReadRt = s.minReadRt := rfl
@[simp] theorem endOp_addr : (endOp o r s).addr = s.addr := rfl
@[simp] theorem endOp_lock : (endOp o r s).lock = lockAfter o s.lock := rfl
@[simp] theorem endOp_sel0 : (endOp o r s).sel0 = s.sel0 := rfl
@[simp] theorem endOp_pay : (endOp o r s).pay = s.pay := rfl
@[simp] theorem endOp_plen : (endOp o r s).plen = s.plen := rfl
@[simp] theorem endOp_cursor : (endOp o r s).cursor = s.cursor := rfl
@[simp] theorem endOp_seq : (endOp o r s).seq = s.seq := rfl
@[simp] theorem endOp_chk : (endOp o r s).chk = s.chk := rfl
@[simp] theorem endOp_more : (endOp o r s).more = s.more := rfl
@[simp] theorem endOp_curOff : (endOp o r s).curOff = s.curOff := rfl
@[simp] theorem endOp_curLen : (endOp o r s).curLen = s.curLen := rfl
@[simp] theorem endOp_acc : (endOp o r s).acc = s.acc := rfl
@[simp] theorem endOp_fragValid : (endOp o r s).fragValid = s.fragValid := rfl
@[simp] theorem endOp_rt : (endOp o r s).rt = s.rt := rfl
@[simp] theorem endOp_attempt : (endOp o r s).attempt = s.attempt := rfl
@[simp] theorem endOp_inReceive : (endOp o r s).inReceive = s.inReceive := rfl
@[simp] theorem endOp_porArmed : (endOp o r s).porArmed = s.porArmed := rfl
@[simp] theorem endOp_porAdjust : (endOp o r s).porAdjust = s.porAdjust := rfl
@[simp] theorem endOp_lastErr : (endOp o r s).lastErr = s.lastErr := rfl
@[simp] theorem endOp_pollDir : (endOp o r s).pollDir = s.pollDir := rfl
@[simp] theorem endOp_pollRt : (endOp o r s).pollRt = s.pollRt := rfl
@[simp] theorem endOp_pollIter : (endOp o r s).pollIter = s.pollIter := rfl
@[simp] theorem endOp_snap : (endOp o r s).snap = s.snap := rfl
@[simp] theorem endOp_phase : (endOp o r s).phase = .idle := rfl
@[simp] theorem endOp_opPayload : (endOp o r s).opPayload = s.opPayload := rfl
@[simp] theorem endOp_xCmd : (endOp o r s).xCmd = s.xCmd := rfl
@[simp] theorem endOp_xRel : (endOp o r s).xRel = s.xRel := rfl
@[simp] theorem endOp_xPower : (endOp o r s).xPower = s.xPower := rfl
@[simp] theorem endOp_xMs : (endOp o r s).xMs = s.xMs := rfl
@[simp] theorem endOp_xReply : (endOp o r s).xReply = s.xReply := rfl
@[simp] theorem endOp_statusScratch : (endOp o r s).statusScratch = s.statusScratch := rfl
@[simp] theorem endOp_result : (endOp o r s).result = some r := rfl
@[simp] theorem endOp_trace : (endOp o r s).trace = s.trace := rfl
@[simp] theorem endOp_host : (endOp o r s).host = s.host := rfl
@[simp] theorem endOp_answers : (endOp o r s).answers = s.answers := rfl

end

/-! ### The start of an exchange -/

section
variable (c rel : List Byte) (p : Bool) (ms : Nat) (k : ExchCaller) (s : State)

@[simp] theorem startExchange_cfg : (startExchange c rel p ms k s).cfg = s.cfg := rfl
@[simp] theorem startExchange_tBase : (startExchange c rel p ms k s).tBase = s.tBase := rfl
@[simp] theorem startExchange_tIncr : (startExchange c rel p ms k s).tIncr = s.tIncr := rfl
@[simp] theorem startExchange_corr : (startExchange c rel p ms k s).corr = s.corr := rfl
@[simp] theorem startExchange_minReadRt : (startExchange c rel p ms k s).minReadRt = s.minReadRt := rfl
@[simp] theorem startExchange_addr : (startExchange c rel p ms k s).addr = s.addr := rfl
@[simp] theorem startExchange_lock : (startExchange c rel p ms k s).lock = s.lock := rfl
@[simp] theorem startExchange_sel0 : (startExchange c rel p ms k s).sel0 = s.sel0 := rfl
@[simp] theorem startExchange_pay : (startExchange c rel p ms k s).pay = s.pay := rfl
@[simp] theorem startExchange_plen : (startExchange c rel p ms k s).plen = s.plen := rfl
@[simp] theorem startExchange_cursor : (startExchange c rel p ms k s).cursor = s.cursor := rfl
@[simp] theorem startExchange_seq : (startExchange c rel p ms k s).seq = s.seq := rfl
@[simp] theorem startExchange_chk : (startExchange c rel p ms k s).chk = s.chk := rfl
@[simp] theorem startExchange_more : (startExchange c rel p ms k s).more = s.more := rfl
@[simp] theorem startExchange_curOff : (startExchange c rel p ms k s).curOff = s.curOff := rfl
@[simp] theorem startExchange_curLen : (startExchange c rel p ms k s).curLen = s.curLen := rfl
@[simp] theorem startExchange_acc : (startExchange c rel p ms k s).acc = s.acc := rfl
@[simp] theorem startExchange_fragValid : (startExchange c rel p ms k s).fragValid = s.fragValid := rfl
@[simp] theorem startExchange_rt : (startExchange c rel p ms k s).rt = s.rt := rfl
@[simp] theorem startExchange_attempt : (startExchange c rel p ms k s).attempt = s.attempt := rfl
@[simp] theorem startExchange_inReceive : (startExchange c rel p ms k s).inReceive = s.inReceive := rfl
@[simp] theorem startExchange_porArmed : (startExchange c rel p ms k s).porArmed = s.porArmed := rfl
@[simp] theorem startExchange_porAdjust : (startExchange c rel p ms k s).porAdjust = s.porAdjust := rfl
@[simp] theorem startExchange_lastErr : (startExchange c rel p ms k s).lastErr = s.lastErr := rfl
@[simp] theorem startExchange_pollDir : (startExchange c rel p ms k s).pollDir = s.pollDir := rfl
@[simp] theorem startExchange_pollRt : (startExchange c rel p ms k s).pollRt = s.pollRt := rfl
@[simp] theorem startExchange_pollIter : (startExchange c rel p ms k s).pollIter = s.pollIter := rfl
@[simp] theorem startExchange_snap : (startExchange c rel p ms k s).snap = s.snap := rfl
@[simp] theorem startExchange_phase : (startExchange c rel p ms k s).phase = .block k := rfl
@[simp] theorem startExchange_opPayload : (startExchange c rel p ms k s).opPayload = s.opPayload := rfl
@[simp] theorem startExchange_xCmd : (startExchange c rel p ms k s).xCmd = c := rfl
@[simp] theorem startExchange_xRel : (startExchange c rel p ms k s).xRel = rel := rfl
@[simp] theorem startExchange_xPower : (startExchange c rel p ms k s).xPower = p := rfl
@[simp] theorem startExchange_xMs : (startExchange c rel p ms k s).xMs = ms := rfl
@[simp] theorem startExchange_xReply : (startExchange c rel p ms k s).xReply = s.xReply := rfl
@[simp] theorem startExchange_statusScratch : (startExchange c rel p ms k s).statusScratch = s.statusScratch := rfl
@[simp] theorem startExchange_result : (startExchange c rel p ms k s).result = s.result := rfl
@[simp] theorem startExchange_trace : (startExchange c rel p ms k s).trace = s.trace ++ firstByteWarning s := rfl
@[simp] theorem startExchange_host : (startExchange c rel p ms k s).host = s.host := rfl
@[simp] theorem startExchange_answers : (startExchange c rel p ms k s).answers = s.answers := rfl

end

/-! ### The start of a poll -/

section
variable (c : PollCaller) (d : Dir) (code : Int) (s : State)

@[simp] theorem startPoll_cfg : (startPoll c d code s).cfg = s.cfg := rfl
@[simp] theorem startPoll_tBase : (startPoll c d code s).tBase = s.tBase := rfl
@[simp] theorem startPoll_tIncr : (startPoll c d code s).tIncr = s.tIncr := rfl
@[simp] theorem startPoll_corr : (startPoll c d code s).corr = s.corr := rfl
@[simp] theorem startPoll_minReadRt : (startPoll c d code s).minReadRt = s.minReadRt := rfl
@[simp] theorem startPoll_addr : (startPoll c d code s).addr = s.addr := rfl
@[simp] theorem startPoll_lock : (startPoll c d code s).lock = s.lock := rfl
@[simp] theorem startPoll_sel0 : (startPoll c d code s).sel0 = s.sel0 := rfl
@[simp] theorem startPoll_pay : (startPoll c d code s).pay = s.pay := rfl
@[simp] theorem startPoll_plen : (startPoll c d code s).plen = s.plen := rfl
@[simp] theorem startPoll_cursor : (startPoll c d code s).cursor = s.cursor := rfl
@[simp] theorem startPoll_seq : (startPoll c d code s).seq = s.seq := rfl
@[simp] theorem startPoll_chk : (startPoll c d code s).chk = s.chk := rfl
@[simp] theorem startPoll_more : (startPoll c d code s).more = s.more := rfl
@[simp] theorem startPoll_curOff : (startPoll c d code s).curOff = s.curOff := rfl
@[simp] theorem startPoll_curLen : (startPoll c d code s).curLen = s.curLen := rfl
@[simp] theorem startPoll_acc : (startPoll c d code s).acc = s.acc := rfl
@[simp] theorem startPoll_fragValid : (startPoll c d code s).fragValid = s.fragValid := rfl
@[simp] theorem startPoll_rt : (startPoll c d code s).rt = s.rt := rfl
@[simp] theorem startPoll_attempt : (startPoll c d code s).attempt = s.attempt := rfl
@[simp] theorem startPoll_inReceive : (startPoll c d code s).inReceive = s.inReceive := rfl
@[simp] theorem startPoll_porArmed : (startPoll c d code s).porArmed = s.porArmed := rfl
@[simp] theorem startPoll_porAdjust : (startPoll c d code s).porAdjust = s.porAdjust := rfl
@[simp] theorem startPoll_lastErr : (startPoll c d code s).lastErr = s.lastErr := rfl
@[simp] theorem startPoll_pollDir : (startPoll c d code s).pollDir = d := rfl
@[simp] theorem startPoll_pollRt : (startPoll c d code s).pollRt = clamp15 code := rfl
@[simp] theorem startPoll_pollIter : (startPoll c d code s).pollIter = 1 := rfl
@[simp] theorem startPoll_snap : (startPoll c d code s).snap = s.snap := rfl
@[simp] theorem startPoll_phase : (startPoll c d code s).phase = .select (.poll c) := rfl
@[simp] theorem startPoll_opPayload : (startPoll c d code s).opPayload = s.opPayload := rfl
@[simp] theorem startPoll_xCmd : (startPoll c d code s).xCmd = s.xCmd := rfl
@[simp] theorem startPoll_xRel : (startPoll c d code s).xRel = s.xRel := rfl
@[simp] theorem startPoll_xPower : (startPoll c d code s).xPower = s.xPower := rfl
@[simp] theorem startPoll_xMs : (startPoll c d code s).xMs = s.xMs := rfl
@[simp] theorem startPoll_xReply : (startPoll c d code s).xReply = s.xReply := rfl
@[simp] theorem startPoll_statusScratch : (startPoll c d code s).statusScratch = s.statusScratch := rfl
@[simp] theorem startPoll_result : (startPoll c d code s).result = s.result := rfl
@[simp] theorem startPoll_trace : (startPoll c d code s).trace = s.trace := rfl
@[simp] theorem startPoll_host : (startPoll c d code s).host = s.host := rfl
@[simp] theorem startPoll_answers : (startPoll c d code s).answers = s.answers := rfl

end

end Sys2Proof.Machine
end

