-- ==== Sys2Proof/Laws/Advances.lean ====
section
/-! SUPPORT. What no move of the block touches, and what it only ever raises: one lemma per operation of
Machine/Ops.lean up to `feed`, `drive` and `resume`. -/

namespace Sys2Proof.Machine

/-- The configuration, the address, the table, the tunables, the host port and the operand of a
Transfer stay; the trace grows at its end; `MIN_READ_RT` does not fall; `POR_ARMED` is not set. -/
structure Advances (s t : State) : Prop where
  cfg : t.cfg = s.cfg
  addr : t.addr = s.addr
  corr : t.corr = s.corr
  tBase : t.tBase = s.tBase
  tIncr : t.tIncr = s.tIncr
  host : t.host = s.host
  opPayload : t.opPayload = s.opPayload
  trace : s.trace <+: t.trace
  minReadRt : s.minReadRt ≤ t.minReadRt
  porArmed : t.porArmed = true → s.porArmed = true

namespace Advances

theorem refl (s : State) : Advances s s where
  cfg := rfl
  addr := rfl
  corr := rfl
  tBase := rfl
  tIncr := rfl
  host := rfl
  opPayload := rfl
  trace := List.prefix_refl _
  minReadRt := le_refl _
  porArmed := id

theorem trans {s t u : State} (h : Advances s t) (k : Advances t u) : Advances s u where
  cfg := k.cfg.trans h.cfg
  addr := k.addr.trans h.addr
  corr := k.corr.trans h.corr
  tBase := k.tBase.trans h.tBase
  tIncr := k.tIncr.trans h.tIncr
  host := k.host.trans h.host
  opPayload := k.opPayload.trans h.opPayload
  trace := h.trace.trans k.trace
  minReadRt := h.minReadRt.trans k.minReadRt
  porArmed := h.porArmed ∘ k.porArmed

end Advances

/-- A saturating increment does not lower a run-time code. -/
theorem le_sat15_succ (c : Code) : c ≤ sat15 (c.val + 1) := by
  have := c.isLt
  simp only [sat15, Fin.le_def]
  omega

section
variable (s : State)

theorem emit_advances (es : List Event) : Advances s (emit es s) :=
  { Advances.refl s with trace := List.prefix_append _ _ }

theorem endOp_advances (o : Owner) (r : Result) : Advances s (endOp o r s) := { Advances.refl s with }

theorem startExchange_advances (c rel : List Byte) (p : Bool) (ms : Nat) (k : ExchCaller) :
    Advances s (startExchange c rel p ms k s) :=
  { Advances.refl s with trace := List.prefix_append _ _ }

theorem startWriteStatus_advances (c : Code) (k : ExchCaller) :
    Advances s (startWriteStatus c k s) := startExchange_advances ..

theorem startRun_advances (c : Code) (k : ExchCaller) : Advances s (startRun c k s) :=
  startExchange_advances ..

theorem startWriteHeader_advances (h : List Byte) (k : ExchCaller) :
    Advances s (startWriteHeader h k s) := startExchange_advances ..

theorem startReadHeader_advances (k : ExchCaller) : Advances s (startReadHeader k s) :=
  startExchange_advances ..

theorem startWriteData_advances (d : List Byte) (k : ExchCaller) :
    Advances s (startWriteData d k s) := startExchange_advances ..

theorem startReadData_advances (n : Nat) (k : ExchCaller) : Advances s (startReadData n k s) :=
  startExchange_advances ..

theorem startPorRecover_advances (p : PorCaller) : Advances s (startPorRecover p s) :=
  (emit_advances s _).trans (startWriteStatus_advances ..)

theorem pollRead_advances (c : PollCaller) : Advances s (pollRead c s) := { Advances.refl s with }

theorem startPoll_advances (c : PollCaller) (d : Dir) (code : Int) :
    Advances s (startPoll c d code s) := { Advances.refl s with }

theorem transferStop_advances (e : Error) : Advances s (transferStop e s) := { Advances.refl s with }

theorem transferBump_advances : Advances s (transferBump s) where
  cfg := rfl
  addr := rfl
  corr := rfl
  tBase := rfl
  tIncr := rfl
  host := rfl
  opPayload := rfl
  trace := List.prefix_append _ _
  minReadRt := by
    simp only [transferBump, emit_minReadRt]
    split
    · exact le_sat15_succ _
    · exact le_refl _
  porArmed := id

/-- `FragInit` in both its outcomes. -/
theorem fragInit_cases (payload : List Byte) :
    (payload.length = 0 ∨ payload.length > Const.maxPayload) ∧
      fragInit payload s = ({ s with fragValid := false }, some ErrCode.invalidPayload.plain) ∨
    (1 ≤ payload.length ∧ payload.length ≤ Const.maxPayload) ∧
      fragInit payload s =
        ({ s with pay := payload, plen := payload.length, cursor := 0, seq := 0, chk := 0,
                  more := true, curOff := 0, curLen := 0, acc := [], fragValid := true }, none) := by
  unfold fragInit
  split
  · exact .inl ⟨‹_›, rfl⟩
  · exact .inr ⟨by omega, rfl⟩

theorem startAttempt_advances : Advances s (startAttempt s) := by
  obtain ⟨-, h⟩ | ⟨-, h⟩ :=
    fragInit_cases { s with attempt := s.attempt + 1, inReceive := false } s.opPayload <;>
  · simp only [startAttempt, h]
    exact { Advances.refl s with }

theorem transferFail_advances (e : Error) : Advances s (transferFail e s) := by
  have h : Advances s (transferBump { s with lastErr := some e }) := by
    refine Advances.trans ?_ (transferBump_advances _)
    exact { Advances.refl s with }
  unfold transferFail
  split
  · exact transferStop_advances ..
  · split
    · exact h.trans (endOp_advances ..)
    · exact h.trans (startAttempt_advances _)

theorem raise_advances (o : Owner) (e : Error) : Advances s (raise o e s) := by
  cases o
  · exact endOp_advances ..
  · exact transferFail_advances ..
  · exact endOp_advances ..

theorem pollNext_advances (c : PollCaller) : Advances s (pollNext c s) := by
  unfold pollNext
  split
  · exact raise_advances ..
  · exact pollRead_advances ..

/-- `NextHeader` that gives a header. -/
theorem nextHeader_ok {h : List Byte} {t : State} (hn : nextHeader s = .ok (h, t)) :
    s.fragValid = true ∧ s.more = true ∧ h = nextHeaderBytes s ∧
      t = { s with chk := chkUpdate s.cfg s.chk (nextBytes s), seq := s.seq + 1
                   curOff := s.cursor, curLen := nextLen s, cursor := s.cursor + nextLen s
                   more := !isFinal (nextRem s) (nextLen s) } := by
  unfold nextHeader at hn
  split at hn
  · cases hn
  · cases hn
    simp_all

theorem pollReturn_advances (c : PollCaller) : Advances s (pollReturn c s) := by
  cases c
  · exact endOp_advances ..
  · simp only [pollReturn, orRaise]
    cases h : nextHeader s with
    | error e => exact raise_advances ..
    | ok p =>
      obtain ⟨-, -, -, ht⟩ := nextHeader_ok s h
      refine Advances.trans ?_ (startWriteHeader_advances ..)
      exact ht ▸ { Advances.refl s with }
  · exact startReadHeader_advances ..

theorem pollCount_advances : Advances s (pollCount s) := by
  unfold pollCount
  split
  · exact { Advances.refl s with }
  · exact Advances.refl s

theorem pollAct_advances (c : PollCaller) (a : Arm) : Advances s (pollAct c a s) := by
  cases a
  · refine Advances.trans ?_ (startPorRecover_advances ..)
    exact { Advances.refl s with porArmed := by simp }
  · exact startRun_advances ..
  · exact startWriteStatus_advances ..
  · exact startWriteStatus_advances ..
  · exact startWriteStatus_advances ..
  · exact startRun_advances ..
  · exact startRun_advances ..
  · exact pollReturn_advances ..
  · exact raise_advances ..

theorem pollDecide_advances (c : PollCaller) : Advances s (pollDecide c s) := by
  have h : Advances (pollCount s) (withArmCode (armTaken s) (pollCount s)) :=
    { Advances.refl (pollCount s) with }
  exact ((pollCount_advances s).trans h).trans (pollAct_advances ..)

theorem statusReturn_advances (c : StatusCaller) : Advances s (statusReturn c s) := by
  cases c
  · exact endOp_advances ..
  · exact endOp_advances ..
  · exact pollDecide_advances ..

theorem statusAnswered_advances (c : StatusCaller) (rx : List Byte) :
    Advances s (statusAnswered c rx s) := by
  unfold statusAnswered
  dsimp only
  split
  · refine Advances.trans ?_ (statusReturn_advances ..)
    exact { Advances.refl s with }
  · refine Advances.trans ?_ (raise_advances ..)
    exact { Advances.refl s with }

theorem selectAnswered_advances (c : StatusCaller) (ok : Bool) :
    Advances s (selectAnswered c ok s) := by
  unfold selectAnswered
  split
  · exact (emit_advances s _).trans { Advances.refl (emit _ s) with }
  · exact (emit_advances s _).trans { Advances.refl (emit _ s) with }

theorem selectAgainAnswered_advances (c : StatusCaller) (ok : Bool) :
    Advances s (selectAgainAnswered c ok s) := by
  unfold selectAgainAnswered
  split
  · exact (emit_advances s _).trans { Advances.refl (emit _ s) with }
  · exact (emit_advances s _).trans (raise_advances ..)

theorem headerRead_advances (h : List Byte) : Advances s (headerRead h s) := by
  unfold headerRead
  split
  · exact raise_advances ..
  · exact startReadData_advances ..

/-- `AcceptBlock` that accepts. -/
theorem acceptBlock_ok {header data : List Byte} {snap : Snapshot} {done : Bool} {t : State}
    (h : acceptBlock header data snap s = .ok (done, t)) :
    s.fragValid = true ∧ data.length = (byteAt header 1).toNat ∧
      accepts s.cfg s.corr (blockResidual s.cfg header data) (byteAt header 1).toNat = true ∧
      done = (snap.sub == s.cfg.scCommandComplete) ∧
      t = { s with acc := s.acc ++ bytesFrom data Const.reservedRx } := by
  unfold acceptBlock at h
  split at h
  · cases h
  · split at h
    · cases h
      simp_all
    · cases h

/-- `AcceptBlock` that does not. -/
theorem acceptBlock_error {header data : List Byte} {snap : Snapshot} {e : Error}
    (h : acceptBlock header data snap s = .error e) :
    (e = ErrCode.order.plain ∧
      (s.fragValid = false ∨ data.length ≠ (byteAt header 1).toNat)) ∨
    (e = ⟨.crc, .block⟩ ∧ s.fragValid = true ∧ data.length = (byteAt header 1).toNat) := by
  unfold acceptBlock at h
  split at h
  · cases h
    left
    simp_all
  · split at h
    · cases h
    · cases h
      right
      simp_all

theorem dataRead_advances (h d : List Byte) : Advances s (dataRead h d s) := by
  unfold dataRead
  simp only [orRaise]
  cases ha : acceptBlock h d s.snap s with
  | error e => exact raise_advances ..
  | ok p =>
    obtain ⟨done, t⟩ := p
    obtain ⟨-, -, -, -, rfl⟩ := acceptBlock_ok s ha
    have ht : Advances s { s with acc := s.acc ++ bytesFrom d Const.reservedRx } :=
      { Advances.refl s with }
    dsimp only
    split
    · split
      · exact ht.trans (endOp_advances ..)
      · exact ht.trans (raise_advances ..)
    · exact ht.trans (startWriteStatus_advances ..)

theorem exchangeReturn_advances (k : ExchCaller) : Advances s (exchangeReturn k s) := by
  cases k with
  | host | wire => exact endOp_advances ..
  | pollWrite | porWrite | tSWs | tRWs => exact startRun_advances ..
  | pollRun => exact pollNext_advances ..
  | pollBump c =>
    refine Advances.trans ?_ (pollNext_advances ..)
    exact { Advances.refl s with minReadRt := le_sat15_succ _ }
  | porRun p =>
    cases p
    · exact endOp_advances ..
    · exact pollNext_advances ..
  | tSHdr =>
    simp only [exchangeReturn, orRaise]
    cases h : nextData s
    · exact raise_advances ..
    · exact startWriteData_advances ..
  | tSData => exact startWriteStatus_advances ..
  | tSRun =>
    simp only [exchangeReturn]
    split
    · exact startPoll_advances ..
    · refine Advances.trans ?_ (startPoll_advances ..)
      exact { Advances.refl s with }
  | tRHdr => exact headerRead_advances ..
  | tRData h => exact dataRead_advances ..
  | tRRun => exact startPoll_advances ..

theorem sampled_advances (k : ExchCaller) (b : Bool) : Advances s (sampled k b s) := by
  unfold sampled
  split
  · exact raise_advances ..
  · exact exchangeReturn_advances ..

theorem speedAnswered_advances (code : Int) (sp : Speed) : Advances s (speedAnswered code sp s) := by
  unfold speedAnswered
  dsimp only
  split
  · refine (emit_advances s [.speedGet sp]).trans (Advances.trans ?_ (startAttempt_advances _))
    exact { Advances.refl (emit _ s) with }
  · exact (emit_advances s _).trans (endOp_advances ..)

end

/-- One answer taken. -/
theorem feed_advances {a : Answer} {s t : State} (h : feed a s = .next t) : Advances s t := by
  unfold feed at h
  split at h
  · cases h
    exact Advances.refl s
  · split at h <;> cases h
    exact speedAnswered_advances ..
  · split at h <;> cases h
    exact selectAnswered_advances ..
  · split at h <;> cases h
    exact selectAgainAnswered_advances ..
  · split at h
    · split at h <;> cases h
      exact (emit_advances s _).trans (statusAnswered_advances ..)
    · cases h
      exact (emit_advances s _).trans (raise_advances ..)
    · cases h
  · split at h
    · split at h <;> cases h
      exact (emit_advances s _).trans { Advances.refl (emit _ s) with }
    · cases h
      exact (emit_advances s _).trans { Advances.refl (emit _ s) with }
    · cases h
  · split at h
    · split at h <;> cases h
      exact (emit_advances s _).trans { Advances.refl (emit _ s) with }
    · cases h
      exact (emit_advances s _).trans (raise_advances ..)
    · cases h
  · split at h <;> cases h
    exact (emit_advances s _).trans { Advances.refl (emit _ s) with }
  · split at h <;> cases h
    exact (emit_advances s _).trans (sampled_advances ..)
  · split at h <;> cases h
    exact (emit_advances s _).trans (sampled_advances ..)

/-- What every answer taken keeps and the setting of the answers keeps, a run on answers keeps. -/
theorem drive_keeps {P : State → Prop} (hfeed : ∀ a s t, P s → s.phase ≠ .idle → feed a s = .next t → P t)
    (hans : ∀ s l, P s → P { s with answers := l }) :
    ∀ (as : List Answer) (s t : State), P s → drive as s = .next t → P t
  | [], s, t, hp, h => by
    cases h
    exact hans s [] hp
  | a :: as, s, t, hp, h => by
    unfold drive at h
    split at h
    · cases h
      exact hans s _ hp
    · rename_i hi
      split at h
      · rename_i s' hs
        exact drive_keeps hfeed hans as s' t (hfeed a s s' hp hi hs) h
      · cases h
      · cases h

/-- A run on answers. -/
theorem drive_advances {as : List Answer} {s t : State} (h : drive as s = .next t) : Advances s t :=
  drive_keeps (P := Advances s) (fun _ _ _ hp _ hf => hp.trans (feed_advances hf))
    (fun _ _ hp => hp.trans { Advances.refl _ with }) as s t (Advances.refl s) h

/-- The operation under way going on. -/
theorem resume_advances {s t : State} (h : resume s = .next t) : Advances s t := drive_advances h

/-! ### Runs on answers, one answer at a time -/

@[simp] theorem drive_nil (s : State) : drive [] s = .next { s with answers := [] } := rfl

/-- The operation under way goes on with the answers at hand. -/
theorem resume_eq {s : State} {as : List Answer} (h : s.answers = as) : resume s = drive as s := by
  rw [resume, h]

theorem drive_idle {s : State} (h : s.phase = .idle) (as : List Answer) :
    drive as s = .next { s with answers := as } := by
  cases as with
  | nil => rfl
  | cons a as => simp [drive, h]

theorem drive_cons {a : Answer} {as : List Answer} {s t : State} (hi : s.phase ≠ .idle)
    (h : feed a s = .next t) : drive (a :: as) s = drive as t := by
  rw [drive]
  split
  · contradiction
  · rw [h]

end Sys2Proof.Machine
end

