-- ==== Sys2Proof/Laws/Issue.lean ====
section
/-! SUPPORT. The three shapes of an operation (R71, R89): at once, with `LOCK` taken, inside an
operation that holds it. Each is said once here with all its outcomes; `startOf` is what the operation
does before its first answered call. -/

namespace Sys2Proof.Machine

/-- The operations of a caller that holds `LOCK` (R89, last row, and R88). -/
def insideOf : Instr → Bool
  | .porrecover | .wireWriteHeader _ | .wireReadHeader | .wireWriteData _ | .wireReadData _
  | .wireRun _ | .wireInterrupt _ | .wireReset | .wireWriteStatus _ | .wireReadStatus => true
  | _ => false

/-- What an operation that makes calls, or takes `LOCK`, does before its first answer. -/
def startOf : Instr → State → State
  | .fraginit payload, s => match fragInit payload s with
    | (s', none) => endOp .host (.ok .none) s'
    | (s', some e) => raise .host e s'
  | .nextheader, s => endWith (nextHeader s) s fun (h, s') => (.bytes h, s')
  | .nextdata, s => endWith (nextData s) s fun d => (.bytes d, s)
  | .acceptblock header data snap, s =>
    endWith (acceptBlock header data snap s) s fun (done, s') => (.complete done, s')
  | .finish, s => endWith (finish s) s fun reply => (.bytes reply, s)
  | .readstatus, s => startReadStatus .host s
  | .writestatus code, s => startWriteStatus (clamp15 code) (.host .none) s
  | .poll dir code, s => startPoll .host dir code s
  | .exchange cmdbytes rel power ms, s => startExchange cmdbytes rel power ms (.host .replies) s
  | .run code, s => startRun (clamp15 code) (.host .none) s
  | .interrupt code, s => startInterrupt (clamp15 code) (.host .none) s
  | .devreset, s => startDevReset (.host .none) s
  | .writeheader h, s => startWriteHeader h (.host .none) s
  | .readheader, s => startReadHeader (.host .header) s
  | .writedata d, s => startWriteData d (.host .none) s
  | .readdata n, s => startReadData n (.host (.data n)) s
  | .transfer payload code, s => startTransfer payload code s
  | .porrecover, s => startPorRecover .alone s
  | .wireWriteHeader h, s => startWriteHeader h .wire s
  | .wireReadHeader, s => startReadHeader .wire s
  | .wireWriteData d, s => startWriteData d .wire s
  | .wireReadData n, s => startReadData n .wire s
  | .wireRun ms, s => startExchange [s.cfg.cmdRun] s.cfg.relRun.bytes true ms .wire s
  | .wireInterrupt ms, s => startExchange [s.cfg.cmdInterrupt] s.cfg.relInterrupt.bytes true ms .wire s
  | .wireReset, s => startDevReset .wire s
  | .wireWriteStatus code, s => startWriteStatus code .wire s
  | .wireReadStatus, s => { s with phase := .statusBlock .wire }
  | _, s => s

/-- A locking operation is issued with `LOCK`. -/
theorem exec_locked {i : Instr} (h : locks i = true) (s : State) :
    exec i s = issueLocked i s (startOf i) := by
  cases i <;> first | rfl | cases h

/-- An operation of a caller that holds `LOCK` is issued without it. -/
theorem exec_inside {i : Instr} (h : insideOf i = true) (s : State) :
    exec i s = issueInside i s (startOf i) := by
  cases i <;> first | rfl | cases h

/-- An operation of neither kind acts at once: it gives a result, and a setter its register. -/
theorem exec_atOnce {i : Instr} (h : locks i = false) (h' : insideOf i = false) (s : State) :
    ∃ r base incr, exec i s = .next { s with tBase := base, tIncr := incr, result := some r } ∧
      ((∀ ms, i ≠ .setbase ms) → base = s.tBase) ∧ ((∀ ms, i ≠ .setincr ms) → incr = s.tIncr) := by
  cases i <;> first
    | cases h; done
    | cases h'; done
    | exact ⟨_, s.tBase, s.tIncr, rfl, fun _ => rfl, fun _ => rfl⟩
    | skip
  case decodestatus bytes =>
    simp only [exec, execDecodestatus, issueAtOnce]
    split <;> exact ⟨_, s.tBase, s.tIncr, rfl, fun _ => rfl, fun _ => rfl⟩
  case setbase ms =>
    simp only [exec, execSetbase, issueAtOnce]
    split
    · split
      · exact ⟨_, s.tBase, s.tIncr, rfl, fun _ => rfl, fun _ => rfl⟩
      · exact ⟨_, _, s.tIncr, rfl, fun k => absurd rfl (k ms), fun _ => rfl⟩
    · exact ⟨_, s.tBase, s.tIncr, rfl, fun _ => rfl, fun _ => rfl⟩
  case setincr ms =>
    simp only [exec, execSetincr, issueAtOnce]
    split
    · split
      · exact ⟨_, s.tBase, s.tIncr, rfl, fun _ => rfl, fun _ => rfl⟩
      · exact ⟨_, s.tBase, _, rfl, fun _ => rfl, fun k => absurd rfl (k ms)⟩
    · exact ⟨_, s.tBase, s.tIncr, rfl, fun _ => rfl, fun _ => rfl⟩

/-- An operation that takes `LOCK` has a host word. -/
theorem hostWord_of_locks {i : Instr} (h : locks i = true) : ∃ w, hostWord i = some w := by
  cases i <;> first | exact ⟨_, rfl⟩ | cases h

/-- An operation of a caller that holds `LOCK` has none. -/
theorem hostWord_of_inside {i : Instr} (h : insideOf i = true) : hostWord i = none := by
  cases i <;> first | rfl | cases h

/-- `busy` is the negation of `Ready`'s two tests. -/
theorem busy_eq_false {s : State} : busy s = false ↔ s.lock = false ∧ s.phase = .idle := by
  simp [busy]

/-- A locking operation that can begin runs on the answers at hand. -/
theorem issueLocked_ready {i : Instr} {s : State} {start : State → State} (hi : i.wf = true)
    (hl : s.lock = false) (hp : s.phase = .idle) :
    issueLocked i s start = resume (start { s with lock := true }) := by
  simp [issueLocked, hi, busy, hl, hp]

/-- An operation inside another that can begin runs on the answers at hand. -/
theorem issueInside_idle {i : Instr} {s : State} {start : State → State} (hi : i.wf = true)
    (hp : s.phase = .idle) : issueInside i s start = resume (start s) := by
  simp [issueInside, hi, hp]

/-- What a locking operation that answers a next state did: refused its operand, was held, or ran. -/
theorem issueLocked_next {i : Instr} {s t : State} {start : State → State}
    (h : issueLocked i s start = .next t) :
    (i.wf = false ∧ t = illegalOp s) ∨
    (busy s = true ∧ ∃ w, hostWord i = some w ∧ t = { s with host := .op w :: s.host }) ∨
    (i.wf = true ∧ busy s = false ∧ resume (start { s with lock := true }) = .next t) := by
  unfold issueLocked at h
  split at h
  · cases h
    simp_all
  · split at h
    · unfold hold at h
      split at h <;> cases h
      simp_all
    · simp_all

/-- What an operation inside another that answers a next state did. -/
theorem issueInside_next {i : Instr} {s t : State} {start : State → State}
    (h : issueInside i s start = .next t) :
    (i.wf = false ∧ t = illegalOp s) ∨
    (s.phase ≠ .idle ∧ ∃ w, hostWord i = some w ∧ t = { s with host := .op w :: s.host }) ∨
    (i.wf = true ∧ s.phase = .idle ∧ resume (start s) = .next t) := by
  unfold issueInside at h
  split at h
  · cases h
    simp_all
  · split at h
    · unfold hold at h
      split at h <;> cases h
      simp_all
    · simp_all

/-- The start of an operation other than `TRANSFER` only advances. -/
theorem startOf_advances {i : Instr} (hi : ∀ p c, i ≠ .transfer p c) (s : State) :
    Advances s (startOf i s) := by
  have hw : ∀ {α : Type} (r : Except Error α) (ok : α → Value × State),
      (∀ a, r = .ok a → Advances s (ok a).2) → Advances s (endWith r s ok) := by
    intro α r ok h
    cases r with
    | error e => exact endOp_advances ..
    | ok a => exact (h a rfl).trans (endOp_advances ..)
  cases i with
  | fraginit payload =>
    simp only [startOf]
    obtain ⟨-, h⟩ | ⟨-, h⟩ := fragInit_cases s payload <;>
    · rw [h]
      exact { Advances.refl s with }
  | nextheader =>
    refine hw _ _ fun a ha => ?_
    obtain ⟨-, -, -, ht⟩ := nextHeader_ok s ha
    exact ht ▸ { Advances.refl s with }
  | nextdata => exact hw _ _ fun _ _ => Advances.refl s
  | acceptblock =>
    refine hw _ _ fun a ha => ?_
    obtain ⟨-, -, -, -, ht⟩ := acceptBlock_ok s ha
    exact ht ▸ { Advances.refl s with }
  | finish => exact hw _ _ fun _ _ => Advances.refl s
  | readstatus | wireReadStatus => exact { Advances.refl s with }
  | poll => exact startPoll_advances ..
  | transfer p c => exact absurd rfl (hi p c)
  | porrecover => exact startPorRecover_advances ..
  | tomillis | setbase | setincr | crc16 | correction | validate | decodestatus =>
    exact Advances.refl s
  | _ => exact startExchange_advances ..

/-- `MIN_READ_RT` is not touched before the first answer. -/
theorem startOf_minReadRt (i : Instr) (s : State) : (startOf i s).minReadRt = s.minReadRt := by
  cases i <;> try rfl
  case fraginit payload =>
    simp only [startOf]
    obtain ⟨-, h⟩ | ⟨-, h⟩ := fragInit_cases s payload <;>
    · rw [h]
      rfl
  case nextheader =>
    simp only [startOf, endWith]
    cases h : nextHeader s with
    | error e => rfl
    | ok a =>
      obtain ⟨-, -, -, ht⟩ := nextHeader_ok s h
      simp [ht]
  case acceptblock header data snap =>
    simp only [startOf, endWith]
    cases h : acceptBlock header data snap s with
    | error e => rfl
    | ok a =>
      obtain ⟨-, -, -, -, ht⟩ := acceptBlock_ok s h
      simp [ht]
  case nextdata => simp only [startOf, endWith]; cases nextData s <;> rfl
  case finish => simp only [startOf, endWith]; cases finish s <;> rfl

end Sys2Proof.Machine
end

