-- ==== Sys2Proof/Laws/Values.lean ====
section
/-! SUPPORT. The operand forms and the CRC in the words of the spec's rules: one small lemma for each
definition, so that no later proof unfolds it. -/

namespace Sys2Proof.Machine

/-- `sat15(c) = min(c, 15)` (R8). -/
@[simp] theorem sat15_val (n : Nat) : (sat15 n).val = min n 15 := rfl

/-- `clamp15(c) = max(0, min(15, c))` (R8). -/
@[simp] theorem clamp15_val (c : Int) : (clamp15 c).val = (max 0 (min 15 c)).toNat := by
  rw [clamp15, sat15_val]
  omega

/-- The code byte of a write status (R87 f). -/
@[simp] theorem codeByte_eq (c : Code) : codeByte c = BitVec.ofNat 8 c.val := rfl

/-- `le16(v) = [v[7:0], v[15:8]]` (R8). -/
theorem le16_eq (v : Half) : le16 v = [v.setWidth 8, (v >>> 8).setWidth 8] := by
  simp only [le16, List.cons.injEq, and_true]
  constructor <;> (ext i hi; simp)

/-- `be16(v) = [v[15:8], v[7:0]]` (R8). -/
theorem be16_eq (v : Half) : be16 v = [(v >>> 8).setWidth 8, v.setWidth 8] := by
  simp only [be16, List.cons.injEq, and_true]
  constructor <;> (ext i hi; simp)

/-- The bytes that answered the body of a read stand from reply byte 10 on (R94). -/
theorem bodyReply_commandReply {rx : List Byte} {m n : Nat} (h : n + 1 ≤ m) :
    bodyReply (commandReply rx m) n = (rx.drop 10).take n := by
  simp only [bodyReply, commandReply, slice, Const.prefixLen, List.drop_take, List.drop_drop,
    List.take_take]
  congr 1
  omega

/-! ### The CRC -/

/-- One shift is linear. -/
theorem crcShift_xor (a b : Half) : crcShift (a ^^^ b) = crcShift a ^^^ crcShift b := by
  unfold crcShift
  rw [BitVec.getLsbD_xor, BitVec.ushiftRight_xor_distrib]
  cases a.getLsbD 0 <;> cases b.getLsbD 0 <;> simp <;> ac_nf <;> simp

/-- So are `n` shifts. -/
theorem crcShifts_xor (n : Nat) (a b : Half) :
    crcShifts n (a ^^^ b) = crcShifts n a ^^^ crcShifts n b := by
  induction n generalizing a b with
  | zero => rfl
  | succ n ih => simp [crcShifts, crcShift_xor, ih]

/-- Shifts add up. -/
theorem crcShifts_add (m n : Nat) (c : Half) : crcShifts (m + n) c = crcShifts n (crcShifts m c) := by
  induction m generalizing c with
  | zero => simp [crcShifts]
  | succ m ih => rw [Nat.succ_add, crcShifts, crcShifts, ih]

/-- One byte into the register is linear in both. -/
theorem crcByte_xor (a b : Half) (x y : Byte) :
    crcByte (a ^^^ b) (x ^^^ y) = crcByte a x ^^^ crcByte b y := by
  unfold crcByte
  rw [← crcShifts_xor, BitVec.setWidth_xor]
  congr 1
  ac_rfl

@[simp] theorem crcOneWire_nil (c : Half) : crcOneWire c [] = c := rfl

@[simp] theorem crcOneWire_cons (c : Half) (b : Byte) (d : List Byte) :
    crcOneWire c (b :: d) = crcOneWire (crcByte c b) d := rfl

/-- The CRC of a concatenation (R130). -/
theorem crcOneWire_append (c : Half) (d e : List Byte) :
    crcOneWire c (d ++ e) = crcOneWire (crcOneWire c d) e := List.foldl_append

/-! ### The correction table -/

@[simp] theorem tableFrom_length (cfg : Cfg) (n : Nat) (v : Half) :
    (tableFrom cfg n v).length = n + 1 := by
  induction n generalizing v with
  | zero => rfl
  | succ n ih => simp [tableFrom, ih]

/-- 139 entries (R132). -/
@[simp] theorem corrTable_length (cfg : Cfg) : (corrTable cfg).length = 139 := by
  simp [corrTable, Const.tableLen]

/-- Outside 1..139 the correction is zero (R133). -/
theorem correction_outside (corr : List Half) {length : Int} (h : length < 1 ∨ 139 < length) :
    correction corr length = 0 := if_pos h

end Sys2Proof.Machine
end

