-- ==== Sys2Proof/Laws/Exchange.lean ====
section
/-! SUPPORT. A whole exchange, and a whole status read, as one move: what the block is in when the
answers of one have been taken. Claims about operations of several exchanges chain these. -/

namespace Sys2Proof.Machine

/-- The frame of the exchange under way. -/
theorem frameOut_eq (s : State) : frameOut s = frameSent s ⟨s.xCmd, s.xRel, s.xPower, s.xMs⟩ := by
  simp [frameOut, frameBytes, frameSent]

/-- A frame has one byte for the marker and eight for the address before `cmd` and `rel` (R81). -/
theorem frameOut_length (s : State) : (frameOut s).length = 9 + s.xCmd.length + s.xRel.length := by
  simp only [frameOut, frameBytes, List.length_cons, List.length_append, Vector.length_toList]
  omega

/-- The warning of R201 in the words of the claims. -/
theorem firstByteWarning_eq (s : State) : firstByteWarning s = warnings s := by
  unfold firstByteWarning warnings
  by_cases h : s.sel0 = s.cfg.selectCmd <;> simp [h]

/-- An exchange that has begun, in the words of the claims. -/
theorem startExchange_eq (c rel : List Byte) (p : Bool) (ms : Nat) (k : ExchCaller) (s : State) :
    startExchange c rel p ms k s = exchangeStarted ⟨c, rel, p, ms⟩ k s := by
  simp [startExchange, exchangeStarted, emit, firstByteWarning_eq]

/-- `WriteStatus(c)` begun (R172). -/
theorem startWriteStatus_eq (c : Code) (k : ExchCaller) (s : State) :
    startWriteStatus c k s = exchangeStarted (writeStatusExch s c.val) k s := by
  simp [startWriteStatus, startExchange_eq, writeStatusExch]

/-- `Run(c)` begun (R206). -/
theorem startRun_eq (c : Code) (k : ExchCaller) (s : State) :
    startRun c k s = exchangeStarted (runExch s c.val) k s := by
  simp [startRun, startExchange_eq, runExch, waitOf, toMillis, millis]

/-- The check of a status reply in the words of the claims (R170). -/
theorem accepts_status {s : State} {rx : List Byte} (h : rx.length = 7) :
    accepts s.cfg s.corr (statusResidual s.cfg rx) Const.statusSpan = true ↔ GoodStatus s rx := by
  simp [accepts, statusResidual, Const.statusSpan, GoodStatus, h]

/-- A status reply that passes its check (R170). -/
theorem statusAnswered_good {s : State} {rx : List Byte} (c : StatusCaller) (h : GoodStatus s rx) :
    statusAnswered c rx s
      = statusReturn c { s with statusScratch := rx, snap := snapshotOf s rx } := by
  unfold statusAnswered
  exact if_pos ((accepts_status h.1).2 h)

/-- A status reply that does not. -/
theorem statusAnswered_bad {s : State} {rx : List Byte} (c : StatusCaller) (hl : rx.length = 7)
    (h : ¬ GoodStatus s rx) :
    statusAnswered c rx s = raise c.owner ⟨.crc, .status⟩ { s with statusScratch := rx } := by
  unfold statusAnswered
  exact if_neg (mt (accepts_status hl).1 h)

/-- The state of an exchange once its status bit has been sampled, before the bit is looked at. -/
def answered (r : Reply) (k : ExchCaller) (s : State) : State :=
  { s with
    sel0 := r.rx.getD 0 0, xReply := r.rx
    phase := if s.xPower then .powerBit k else .bit k
    trace := s.trace ++ (if r.retried then recoveryEvents (frameOut s) else [])
      ++ [.dataBlock (frameOut s) (some r.rx)] ++ sampleEvents s.xPower s.xMs r.smart r.bit }

/-- A whole exchange: its answers take the block to the test of its status bit. -/
theorem drive_exchange {s : State} {k : ExchCaller} {r : Reply} {x : Exch} (rest : List Answer)
    (hp : s.phase = .block k) (hx : x = ⟨s.xCmd, s.xRel, s.xPower, s.xMs⟩) (hr : r.fits x) :
    drive (exchangeAnswers x r ++ rest) s = drive rest (sampled k r.bit (answered r k s)) := by
  subst hx
  obtain ⟨retried, rx, smart, bit⟩ := r
  have hl : rx.length = (frameOut s).length := by rw [frameOut_length]; exact hr
  cases retried <;> cases hpow : s.xPower <;>
    simp [exchangeAnswers, drive, feed, hp, hl, hpow, blockAnswered, blockFailed, smartAnswered,
      powerBitAnswered, bitAnswered, emit, answered, recoveryEvents, sampleEvents, frameOut, byteAt]

/-- A whole exchange from its start. -/
theorem drive_exchangeStarted (x : Exch) (k : ExchCaller) (s : State) {r : Reply} (rest : List Answer)
    (hr : r.fits x) :
    drive (exchangeAnswers x r ++ rest) (exchangeStarted x k s)
      = drive rest (sampled k r.bit (answered r k (exchangeStarted x k s))) :=
  drive_exchange rest rfl rfl hr

/-- A status read whose device is selected at the first try and whose reply is accepted. -/
theorem drive_status {s : State} {c : StatusCaller} {rx : List Byte} (rest : List Answer)
    (hp : s.phase = .select c) (h : GoodStatus s rx) :
    drive (statusAnswers rx ++ rest) s = drive rest (statusReturn c { s with
      phase := .statusBlock c, statusScratch := rx, snap := snapshotOf s rx
      trace := s.trace ++ statusEvents s rx }) := by
  obtain ⟨hl, ha⟩ := h
  have ha' : accepts s.cfg s.corr (statusResidual s.cfg rx) Const.statusSpan = true := by
    simpa [accepts, statusResidual, Const.statusSpan] using ha
  simp [statusAnswers, drive, feed, hp, hl, selectAnswered, statusAnswered, emit, ha', statusEvents,
    snapshotOf, slice, Const.statusLen, statusFrame, allOnes]

/-- With nothing at the host port a step is the operation under way going on. -/
theorem step_noRequest {s : State} (h : s.host = []) : step s = drive s.answers s := by
  simp [step, h, resume]

/-- What an understood exchange does after its status bit. -/
theorem sampled_understood {k : ExchCaller} {b : Bool} {s : State} (h : b ≠ s.cfg.notUnderstoodBit) :
    sampled k b s = exchangeReturn k s := by
  simp [sampled, h]

/-- What an exchange that was not understood does. -/
theorem sampled_notUnderstood {k : ExchCaller} {b : Bool} {s : State} (h : b = s.cfg.notUnderstoodBit) :
    sampled k b s = raise k.owner ⟨.notUnderstood, .none⟩ s := by
  simp [sampled, h, ErrCode.plain]

/-- Two failures of a frame's `DataBlock` (R202). -/
theorem drive_commFailure {s : State} {k : ExchCaller} (rest : List Answer) (hp : s.phase = .block k) :
    drive ([.fail, .fail] ++ rest) s = drive rest (raise k.owner ⟨.comm, .none⟩ { s with
      phase := .blockRetry k
      trace := s.trace ++ recoveryEvents (frameOut s) ++ [.dataBlock (frameOut s) none] }) := by
  simp [drive, feed, hp, blockFailed, emit, recoveryEvents, frameOut, ErrCode.plain]

end Sys2Proof.Machine
end

