-- ==== Sys2Proof/Laws/Answers.lean ====
section
/-! SUPPORT. What taking an answer can do (`Fed`), and that the answers still at hand play no part in it:
each shared operation commutes with setting them. So a run on answers can be cut anywhere, and a step on several
answers is the steps on one of them at a time (R9). -/

namespace Sys2Proof.Machine

/-! ### What taking an answer can do -/

/-- The ways an answer is taken, one for each call and kind of answer: the inversion of `feed`. -/
inductive Fed (s : State) : Answer → State → Prop
  | speed {code sp} : s.phase = .tSpeed code → Fed s (.speed sp) (speedAnswered code sp s)
  | select {c ok} : s.phase = .select c → Fed s (.selected ok) (selectAnswered c ok s)
  | selectAgain {c ok} : s.phase = .selectAgain c → Fed s (.selected ok) (selectAgainAnswered c ok s)
  | status {c rx} : s.phase = .statusBlock c → rx.length = (statusFrame s.cfg).length →
    Fed s (.block rx) (statusAnswered c rx (emit [.dataBlock (statusFrame s.cfg) (some rx)] s))
  | statusFail {c} : s.phase = .statusBlock c → Fed s .fail
    (raise c.owner ErrCode.comm.plain (emit [.dataBlock (statusFrame s.cfg) none] s))
  | block {k rx} : s.phase = .block k ∨ s.phase = .blockRetry k → rx.length = (frameOut s).length →
    Fed s (.block rx) (blockAnswered k rx s)
  | blockFail {k} : s.phase = .block k → Fed s .fail (blockFailed k s)
  | retryFail {k} : s.phase = .blockRetry k → Fed s .fail
    (raise k.owner ErrCode.comm.plain (emit [.dataBlock (frameOut s) none] s))
  | smart {k b} : s.phase = .smart k → Fed s (.smart b) (smartAnswered k b s)
  | powerBit {k b} : s.phase = .powerBit k → Fed s (.bit b)
    (sampled k b (emit [.getBit b, .sleep s.xMs, .setPowerNormal] s))
  | bit {k b} : s.phase = .bit k → Fed s (.bit b) (sampled k b (emit [.getBit b] s))

/-- Every answer that is taken is taken in one of these ways. -/
theorem feed_fed {a : Answer} {s t : State} (hi : s.phase ≠ .idle) (h : feed a s = .next t) :
    Fed s a t := by
  unfold feed at h
  split at h
  · contradiction
  · split at h <;> cases h
    exact .speed ‹_›
  · split at h <;> cases h
    exact .select ‹_›
  · split at h <;> cases h
    exact .selectAgain ‹_›
  · split at h
    · split at h <;> cases h
      exact .status ‹_› ‹_›
    · cases h
      exact .statusFail ‹_›
    · cases h
  · split at h
    · split at h <;> cases h
      exact .block (.inl ‹_›) ‹_›
    · cases h
      exact .blockFail ‹_›
    · cases h
  · split at h
    · split at h <;> cases h
      exact .block (.inr ‹_›) ‹_›
    · cases h
      exact .retryFail ‹_›
    · cases h
  · split at h <;> cases h
    exact .smart ‹_›
  · split at h <;> cases h
    exact .powerBit ‹_›
  · split at h <;> cases h
    exact .bit ‹_›

/-- And each of these ways is one in which an answer is taken. -/
theorem Fed.feed {a : Answer} {s t : State} (h : Fed s a t) : feed a s = .next t := by
  cases h with
  | speed h | select h | selectAgain h | statusFail h | blockFail h | retryFail h | smart h =>
    unfold Machine.feed
    rw [h]
  | powerBit h | bit h =>
    unfold Machine.feed
    rw [h]
    rfl
  | status h hl =>
    unfold Machine.feed
    rw [h]
    exact if_pos hl
  | block h hl =>
    unfold Machine.feed
    obtain h | h := h <;> rw [h] <;> exact if_pos hl

/-! ### Answers that wait -/

/-- The start of an attempt in both its outcomes (R232). -/
theorem startAttempt_eq (s : State) : startAttempt s =
    if s.opPayload.length = 0 ∨ s.opPayload.length > Const.maxPayload then
      transferStop ErrCode.invalidPayload.plain
        { s with attempt := s.attempt + 1, inReceive := false, fragValid := false }
    else startPoll .sendLoop .send 0 { s with
      attempt := s.attempt + 1, inReceive := false, pay := s.opPayload, plen := s.opPayload.length
      cursor := 0, seq := 0, chk := 0, more := true, curOff := 0, curLen := 0, acc := []
      fragValid := true } := by
  obtain ⟨h, hf⟩ | ⟨h, hf⟩ :=
    fragInit_cases { s with attempt := s.attempt + 1, inReceive := false } s.opPayload
  · simp only [startAttempt, hf, if_pos h]
  · have hn : ¬ (s.opPayload.length = 0 ∨ s.opPayload.length > Const.maxPayload) := by omega
    simp only [startAttempt, hf, if_neg hn]
    rfl

section
variable (s : State) (l : List Answer)

theorem startAttempt_answers :
    { startAttempt s with answers := l } = startAttempt { s with answers := l } := by
  simp only [startAttempt_eq]
  split <;> rfl

theorem raise_answers (o : Owner) (e : Error) :
    { raise o e s with answers := l } = raise o e { s with answers := l } := by
  cases o with
  | host | caller => rfl
  | transfer =>
    simp only [raise, transferFail]
    split
    · rfl
    · split
      · rfl
      · exact startAttempt_answers ..

theorem pollNext_answers (c : PollCaller) :
    { pollNext c s with answers := l } = pollNext c { s with answers := l } := by
  simp only [pollNext]
  split
  · exact raise_answers ..
  · rfl

theorem pollReturn_answers (c : PollCaller) :
    { pollReturn c s with answers := l } = pollReturn c { s with answers := l } := by
  cases c with
  | host | receiveLoop => rfl
  | sendLoop =>
    simp only [pollReturn, orRaise, nextHeader]
    by_cases h : (!s.fragValid || !s.more) = true
    · simp only [h, if_true]
      exact raise_answers ..
    · simp only [h]
      rfl

theorem pollAct_answers (c : PollCaller) (a : Arm) :
    { pollAct c a s with answers := l } = pollAct c a { s with answers := l } := by
  cases a with
  | succeed => exact pollReturn_answers ..
  | fail e => exact raise_answers ..
  | _ => rfl

theorem pollDecide_answers (c : PollCaller) :
    { pollDecide c s with answers := l } = pollDecide c { s with answers := l } := by
  simp only [pollDecide, pollAct_answers]
  congr 1
  simp only [pollCount]
  split <;> rfl

theorem statusAnswered_answers (c : StatusCaller) (rx : List Byte) :
    { statusAnswered c rx s with answers := l } = statusAnswered c rx { s with answers := l } := by
  simp only [statusAnswered]
  split
  · cases c with
    | host | wire => rfl
    | poll p => exact pollDecide_answers ..
  · exact raise_answers ..

theorem selectAnswered_answers (c : StatusCaller) (ok : Bool) :
    { selectAnswered c ok s with answers := l } = selectAnswered c ok { s with answers := l } := by
  cases ok <;> rfl

theorem selectAgainAnswered_answers (c : StatusCaller) (ok : Bool) :
    { selectAgainAnswered c ok s with answers := l }
      = selectAgainAnswered c ok { s with answers := l } := by
  cases ok
  · exact raise_answers ..
  · rfl

theorem headerRead_answers (h : List Byte) :
    { headerRead h s with answers := l } = headerRead h { s with answers := l } := by
  unfold headerRead
  split
  · exact raise_answers ..
  · rfl

theorem dataRead_answers (h d : List Byte) :
    { dataRead h d s with answers := l } = dataRead h d { s with answers := l } := by
  have raised : ∀ e, { raise .transfer e s with answers := l }
      = raise .transfer e { s with answers := l } := raise_answers s l .transfer
  by_cases h1 : (!s.fragValid || d.length != (byteAt h 1).toNat) = true
  · simpa only [dataRead, orRaise, acceptBlock, if_pos h1] using raised _
  · by_cases h2 : accepts s.cfg s.corr (blockResidual s.cfg h d) (byteAt h 1).toNat = true
    · simp only [dataRead, orRaise, acceptBlock, if_neg h1, if_pos h2]
      split
      · have hv : s.fragValid = true := by simp_all
        simp only [finish, hv]
        rfl
      · rfl
    · simpa only [dataRead, orRaise, acceptBlock, if_neg h1, if_neg h2] using raised _

theorem exchangeReturn_answers (k : ExchCaller) :
    { exchangeReturn k s with answers := l } = exchangeReturn k { s with answers := l } := by
  cases k with
  | pollRun | pollBump => exact pollNext_answers ..
  | porRun p =>
    cases p
    · rfl
    · exact pollNext_answers ..
  | tSHdr =>
    simp only [exchangeReturn, nextData]
    by_cases h : (!s.fragValid || s.curLen == 0) = true
    · simp only [h, if_true]
      exact raise_answers ..
    · simp only [h]
      rfl
  | tSRun =>
    simp only [exchangeReturn]
    split <;> rfl
  | tRHdr => exact headerRead_answers ..
  | tRData => exact dataRead_answers ..
  | _ => rfl

theorem sampled_answers (k : ExchCaller) (b : Bool) :
    { sampled k b s with answers := l } = sampled k b { s with answers := l } := by
  simp only [sampled]
  split
  · exact raise_answers ..
  · exact exchangeReturn_answers ..

theorem speedAnswered_answers (code : Int) (sp : Speed) :
    { speedAnswered code sp s with answers := l } = speedAnswered code sp { s with answers := l } := by
  cases sp
  · rfl
  · exact startAttempt_answers ..

end

/-- A call is answered in the same way whatever further answers are at hand. -/
theorem feed_answers {a : Answer} {s t : State} (l : List Answer) (h : feed a s = .next t) :
    feed a { s with answers := l } = .next { t with answers := l } := by
  obtain ⟨u, hu⟩ : ∃ u : State, u = { s with answers := l } := ⟨_, rfl⟩
  have hpu : u.phase = s.phase := hu ▸ rfl
  rw [← hu]
  cases hp : s.phase with
  | idle =>
    simp only [feed, hpu, hp] at h ⊢
    subst hu
    cases h
    rfl
  | tSpeed code =>
    cases a <;> simp only [feed, hpu, hp] at h ⊢ <;> subst hu <;> cases h
    exact congrArg _ (speedAnswered_answers ..).symm
  | select c =>
    cases a <;> simp only [feed, hpu, hp] at h ⊢ <;> subst hu <;> cases h
    exact congrArg _ (selectAnswered_answers ..).symm
  | selectAgain c =>
    cases a <;> simp only [feed, hpu, hp] at h ⊢ <;> subst hu <;> cases h
    exact congrArg _ (selectAgainAnswered_answers ..).symm
  | statusBlock c =>
    cases a <;> simp only [feed, hpu, hp] at h ⊢ <;> subst hu <;> try cases h
    · split at h <;> cases h
      rw [if_pos ‹_›]
      exact congrArg _
        (statusAnswered_answers (emit [.dataBlock (statusFrame s.cfg) (some _)] s) l c _).symm
    · exact congrArg _ (raise_answers (emit [.dataBlock (statusFrame s.cfg) none] s) l ..).symm
  | block k =>
    cases a <;> simp only [feed, hpu, hp] at h ⊢ <;> subst hu <;> try cases h
    · split at h <;> cases h
      exact if_pos ‹_›
    · rfl
  | blockRetry k =>
    cases a <;> simp only [feed, hpu, hp] at h ⊢ <;> subst hu <;> try cases h
    · split at h <;> cases h
      exact if_pos ‹_›
    · exact congrArg _ (raise_answers (emit [.dataBlock (frameOut s) none] s) l ..).symm
  | smart k =>
    cases a <;> simp only [feed, hpu, hp] at h ⊢ <;> subst hu <;> cases h
    rfl
  | powerBit k =>
    cases a <;> simp only [feed, hpu, hp] at h ⊢ <;> subst hu <;> cases h
    exact congrArg _ (sampled_answers (emit [.getBit _, .sleep s.xMs, .setPowerNormal] s) l k _).symm
  | bit k =>
    cases a <;> simp only [feed, hpu, hp] at h ⊢ <;> subst hu <;> cases h
    exact congrArg _ (sampled_answers (emit [.getBit _] s) l k _).symm

/-- A call that cannot take an answer stops in the same way. -/
theorem feed_answers_stop {a : Answer} {s : State} (l : List Answer) (h : ∀ t, feed a s ≠ .next t) :
    feed a { s with answers := l } = feed a s := by
  obtain ⟨u, hu⟩ : ∃ u : State, u = { s with answers := l } := ⟨_, rfl⟩
  have hpu : u.phase = s.phase := hu ▸ rfl
  rw [← hu]
  cases hp : s.phase <;> cases a <;> simp only [feed, hpu, hp] at h ⊢ <;> subst hu <;>
  first
    | exact absurd rfl (h _)
    | (split at h
       · exact absurd rfl (h _)
       · exact (if_neg ‹_›).trans (if_neg ‹_›).symm)

/-- A run on answers does not look at those the state lists. -/
theorem drive_answers (as l : List Answer) (s : State) :
    drive as { s with answers := l } = drive as s := by
  induction as generalizing s with
  | nil => rfl
  | cons a as ih =>
    by_cases hi : s.phase = .idle
    · rw [drive_idle hi, drive_idle (s := { s with answers := l }) hi]
    · cases hf : feed a s with
      | next t =>
        have hu : ({ s with answers := l } : State).phase ≠ .idle := hi
        rw [drive_cons hi hf, drive_cons hu (feed_answers l hf), ih]
      | fault f =>
        have := feed_answers_stop (s := s) (a := a) l (by simp [hf])
        simp only [drive]
        split <;> simp_all
      | refused r =>
        have := feed_answers_stop (s := s) (a := a) l (by simp [hf])
        simp only [drive]
        split <;> simp_all

/-- A run on answers is the run on the first of them, going on with the others. -/
theorem drive_append {as bs : List Answer} {s t : State} (h : drive as s = .next t) :
    drive (as ++ bs) s = drive (t.answers ++ bs) t := by
  induction as generalizing s with
  | nil =>
    cases h
    exact (drive_answers bs [] s).symm
  | cons a as ih =>
    by_cases hi : s.phase = .idle
    · rw [drive_idle hi] at h
      cases h
      exact (drive_answers _ _ s).symm
    · cases hf : feed a s with
      | next u =>
        rw [drive_cons hi hf] at h
        rw [List.cons_append, drive_cons hi hf, ih h]
      | fault f => simp [drive, hf] at h
      | refused r => simp [drive, hf] at h

/-- A step on several answers is the steps on its parts. -/
theorem step_append {as bs : List Answer} {s t : State} (hh : s.host = [])
    (h : step { s with answers := as } = .next t) :
    step { s with answers := as ++ bs } = step { t with answers := t.answers ++ bs } := by
  have hd : drive as { s with answers := as } = .next t := by
    rwa [step_noRequest (s := { s with answers := as }) hh] at h
  have ht : t.host = [] := (drive_advances hd).host.trans hh
  rw [step_noRequest (s := { s with answers := as ++ bs }) hh,
    step_noRequest (s := { t with answers := t.answers ++ bs }) ht]
  simp only [drive_answers]
  exact drive_append (by rwa [drive_answers] at hd)

/-- A step on one answer is the taking of that answer. -/
theorem step_oneAnswer {a : Answer} {s t : State} (hh : s.host = []) (ha : s.answers = [a])
    (hi : s.phase ≠ .idle) (hf : Fed s a t) : step s = .next { t with answers := [] } := by
  rw [step_noRequest hh, ha, drive_cons hi hf.feed, drive_nil]

/-- A step on one answer that raises an error. -/
theorem step_raises {a : Answer} {s t u : State} {o : Owner} {e : Error} (hh : s.host = [])
    (ha : s.answers = [a]) (hi : s.phase ≠ .idle) (hf : Fed s a t) (ht : t = raise o e u) :
    step s = .next (raise o e { u with answers := [] }) := by
  rw [step_oneAnswer hh ha hi hf, ht, raise_answers]

end Sys2Proof.Machine
end

