-- ==== Sys2Proof/Laws/Frames.lean ====
section
/-! SUPPORT. The frames of Safety.lean: reflexive, transitive, and kept by every answer that an operation
of their kind takes. -/

namespace Sys2Proof.Machine

/-! ### As data -/

theorem ExchangeFrame.of {s s' : State} {sel0 xCmd xRel xPower xMs xReply phase lock result trace answers}
    (h : s' = { s with
      sel0 := sel0, xCmd := xCmd, xRel := xRel, xPower := xPower, xMs := xMs, xReply := xReply
      phase := phase, lock := lock, result := result, trace := trace, answers := answers }) :
    ExchangeFrame s s' := by subst h; rfl

theorem StatusFrame.of {s s' : State} {snap statusScratch phase lock result trace answers}
    (h : s' = { s with
      snap := snap, statusScratch := statusScratch, phase := phase, lock := lock, result := result
      trace := trace, answers := answers }) : StatusFrame s s' := by subst h; rfl

theorem PollLoopFrame.of {s s' : State} {pollDir pollRt pollIter snap porArmed minReadRt statusScratch
    sel0 xCmd xRel xPower xMs xReply phase lock result trace answers}
    (h : s' = { s with
      pollDir := pollDir, pollRt := pollRt, pollIter := pollIter, snap := snap, porArmed := porArmed
      minReadRt := minReadRt, statusScratch := statusScratch, sel0 := sel0, xCmd := xCmd
      xRel := xRel, xPower := xPower, xMs := xMs, xReply := xReply, phase := phase, lock := lock
      result := result, trace := trace, answers := answers }) : PollLoopFrame s s' := by subst h; rfl

theorem ExchangeFrame.trans {s t u : State} (h : ExchangeFrame s t) (k : ExchangeFrame t u) :
    ExchangeFrame s u := by
  unfold ExchangeFrame at h
  rw [h] at k
  exact .of k

theorem StatusFrame.trans {s t u : State} (h : StatusFrame s t) (k : StatusFrame t u) :
    StatusFrame s u := by
  unfold StatusFrame at h
  rw [h] at k
  exact .of k

theorem PollLoopFrame.trans {s t u : State} (h : PollLoopFrame s t) (k : PollLoopFrame t u) :
    PollLoopFrame s u := by
  unfold PollLoopFrame at h
  rw [h] at k
  exact .of k

/-- An exchange writes nothing that a poll does not. -/
theorem ExchangeFrame.poll {s t : State} (h : ExchangeFrame s t) : PollLoopFrame s t := .of h

/-- A status read writes nothing that a poll does not. -/
theorem StatusFrame.poll {s t : State} (h : StatusFrame s t) : PollLoopFrame s t := .of h

/-! ### Operations of one exchange -/

/-- An exchange that is a whole operation ends it with its status bit. -/
theorem sampled_whole {k : ExchCaller} (hk : (∃ use, k = .host use) ∨ k = .wire) (b : Bool) (s : State) :
    ∃ o r, sampled k b s = endOp o r s := by
  unfold sampled
  obtain ⟨use, rfl⟩ | rfl := hk <;> split <;> exact ⟨_, _, rfl⟩

/-- Its errors end it too. -/
theorem raise_whole {k : ExchCaller} (hk : (∃ use, k = .host use) ∨ k = .wire) (e : Error) (s : State) :
    ∃ o r, raise k.owner e s = endOp o r s := by
  obtain ⟨use, rfl⟩ | rfl := hk <;> exact ⟨_, _, rfl⟩

/-- The end of an operation after some events. -/
theorem ended_exchangeFrame {s t : State} {es : List Event} (h : ∃ o r, t = endOp o r (emit es s)) :
    ExchangeFrame s t ∧ t.phase = .idle := by
  obtain ⟨o, r, rfl⟩ := h
  exact ⟨.of rfl, rfl⟩

/-- An answer taken by an exchange of any caller before its status bit. -/
theorem blockAnswered_exchangeFrame (k : ExchCaller) (rx : List Byte) (s : State) :
    ExchangeFrame s (blockAnswered k rx s) ∧ (blockAnswered k rx s).phase.exchange = some k := by
  refine ⟨.of rfl, ?_⟩
  simp only [blockAnswered]
  split <;> rfl

/-- An answer taken by an exchange that is a whole operation. -/
theorem feed_exchangeFrame {k : ExchCaller} (hk : (∃ use, k = .host use) ∨ k = .wire) {a : Answer}
    {s t : State} (hp : s.phase.exchange = some k) (h : feed a s = .next t) :
    ExchangeFrame s t ∧ (t.phase = .idle ∨ t.phase.exchange = some k) := by
  have hi : s.phase ≠ .idle := by
    intro hi
    rw [hi] at hp
    cases hp
  have own : ∀ {k'}, s.phase.exchange = some k' → k' = k := fun h' => by simpa [hp] using h'.symm
  cases feed_fed hi h with
  | speed hs | select hs | selectAgain hs | status hs | statusFail hs =>
    rw [hs] at hp
    cases hp
  | @block k' _ hs =>
    obtain rfl : k' = k := own (by obtain hs | hs := hs <;> rw [hs] <;> rfl)
    exact ⟨(blockAnswered_exchangeFrame ..).1, .inr (blockAnswered_exchangeFrame ..).2⟩
  | blockFail hs =>
    obtain rfl := own (by rw [hs]; rfl)
    exact ⟨.of rfl, .inr rfl⟩
  | smart hs =>
    obtain rfl := own (by rw [hs]; rfl)
    exact ⟨.of rfl, .inr rfl⟩
  | retryFail hs =>
    obtain rfl := own (by rw [hs]; rfl)
    exact (ended_exchangeFrame (raise_whole hk ..)).imp_right .inl
  | powerBit hs | bit hs =>
    obtain rfl := own (by rw [hs]; rfl)
    exact (ended_exchangeFrame (sampled_whole hk ..)).imp_right .inl

/-! ### Status reads that are operations -/

/-- An answer taken by a status read that is a whole operation. -/
theorem feed_statusFrame {c : StatusCaller} (hc : c = .host ∨ c = .wire) {a : Answer} {s t : State}
    (hp : s.phase.statusRead = some c) (h : feed a s = .next t) :
    StatusFrame s t ∧ (t.phase = .idle ∨ t.phase.statusRead = some c) := by
  have hi : s.phase ≠ .idle := by
    intro hi
    rw [hi] at hp
    cases hp
  have own : ∀ {c'}, s.phase.statusRead = some c' → c' = c := fun h' => by simpa [hp] using h'.symm
  have raised : ∀ e (u : State), ∃ o r, raise c.owner e u = endOp o r u := fun e u => by
    obtain rfl | rfl := hc <;> exact ⟨_, _, rfl⟩
  cases feed_fed hi h with
  | speed hs | blockFail hs | retryFail hs | smart hs | powerBit hs | bit hs =>
    rw [hs] at hp
    cases hp
  | block hs => obtain hs | hs := hs <;> rw [hs] at hp <;> cases hp
  | @select _ ok hs =>
    obtain rfl := own (by rw [hs]; rfl)
    cases ok <;> exact ⟨.of rfl, .inr rfl⟩
  | @selectAgain _ ok hs =>
    obtain rfl := own (by rw [hs]; rfl)
    cases ok
    · obtain ⟨o, r, e⟩ := raised ErrCode.notSelectable.plain (emit [.selectDevice s.addr false] s)
      exact ⟨.of e, .inl (congrArg State.phase e)⟩
    · exact ⟨.of rfl, .inr rfl⟩
  | statusFail hs =>
    obtain rfl := own (by rw [hs]; rfl)
    obtain ⟨o, r, e⟩ := raised ErrCode.comm.plain (emit [.dataBlock (statusFrame s.cfg) none] s)
    exact ⟨.of e, .inl (congrArg State.phase e)⟩
  | status hs =>
    obtain rfl := own (by rw [hs]; rfl)
    unfold statusAnswered
    dsimp only
    obtain rfl | rfl := hc <;> split <;> exact ⟨.of rfl, .inl rfl⟩

/-! ### POR recovery run on its own -/

/-- The exchanges of PORRECOVER run on its own (R183). -/
def ofRecovery (k : ExchCaller) : Prop := k = .porWrite .alone ∨ k = .porRun .alone

/-- What the status bit of one leads to: the end, or the run. -/
theorem sampled_recovery {k : ExchCaller} (hk : ofRecovery k) (b : Bool) (s : State) :
    RecoverFrame s (sampled k b s) ∧
      ((sampled k b s).phase = .idle ∨
        ∃ k', ofRecovery k' ∧ (sampled k b s).phase.exchange = some k') := by
  unfold sampled
  obtain rfl | rfl := hk <;> split
  · exact ⟨⟨.of rfl, rfl⟩, .inl rfl⟩
  · exact ⟨⟨.of rfl, rfl⟩, .inr ⟨_, .inr rfl, rfl⟩⟩
  · exact ⟨⟨.of rfl, rfl⟩, .inl rfl⟩
  · exact ⟨⟨.of rfl, rfl⟩, .inl rfl⟩

theorem RecoverFrame.trans {s t u : State} (h : RecoverFrame s t) (k : RecoverFrame t u) :
    RecoverFrame s u := ⟨h.1.trans k.1, k.2.trans h.2⟩

/-- Events are within every frame. -/
theorem emit_recoverFrame (es : List Event) (s : State) : RecoverFrame s (emit es s) := ⟨.of rfl, rfl⟩

/-- An answer taken by one of them. -/
theorem feed_recoverFrame {k : ExchCaller} (hk : ofRecovery k) {a : Answer} {s t : State}
    (hp : s.phase.exchange = some k) (h : feed a s = .next t) :
    RecoverFrame s t ∧ (t.phase = .idle ∨ ∃ k', ofRecovery k' ∧ t.phase.exchange = some k') := by
  have hi : s.phase ≠ .idle := by
    intro hi
    rw [hi] at hp
    cases hp
  have own : ∀ {k'}, s.phase.exchange = some k' → k' = k := fun h' => by simpa [hp] using h'.symm
  cases feed_fed hi h with
  | speed hs | select hs | selectAgain hs | status hs | statusFail hs =>
    rw [hs] at hp
    cases hp
  | @block k' _ hs =>
    obtain rfl : k' = k := own (by obtain hs | hs := hs <;> rw [hs] <;> rfl)
    exact ⟨⟨(blockAnswered_exchangeFrame ..).1, rfl⟩,
      .inr ⟨_, hk, (blockAnswered_exchangeFrame ..).2⟩⟩
  | blockFail hs | smart hs =>
    obtain rfl := own (by rw [hs]; rfl)
    exact ⟨⟨.of rfl, rfl⟩, .inr ⟨_, hk, rfl⟩⟩
  | retryFail hs =>
    obtain rfl := own (by rw [hs]; rfl)
    obtain rfl | rfl := hk <;> exact ⟨⟨.of rfl, rfl⟩, .inl rfl⟩
  | powerBit hs | bit hs =>
    obtain rfl := own (by rw [hs]; rfl)
    exact (sampled_recovery hk ..).imp_left (emit_recoverFrame ..).trans

/-! ### Polls of the host -/

/-- A poll of the host that goes on, or the end of it. -/
def InPoll (s t : State) : Prop :=
  PollLoopFrame s t ∧ (t.phase = .idle ∨ t.phase.poll? = some .host)

theorem InPoll.after {s t u : State} (h : PollLoopFrame s t) (k : InPoll t u) : InPoll s u :=
  ⟨h.trans k.1, k.2⟩

theorem pollNext_inPoll (s : State) : InPoll s (pollNext .host s) := by
  unfold pollNext
  split
  · exact ⟨.of rfl, .inl rfl⟩
  · exact ⟨.of rfl, .inr rfl⟩

theorem pollAct_inPoll (a : Arm) (s : State) : InPoll s (pollAct .host a s) := by
  cases a with
  | succeed | fail => exact ⟨.of rfl, .inl rfl⟩
  | _ => exact ⟨.of rfl, .inr rfl⟩

theorem pollDecide_inPoll (s : State) : InPoll s (pollDecide .host s) := by
  have hc : PollLoopFrame s (withArmCode (armTaken s) (pollCount s)) := by
    unfold pollCount
    split <;> exact .of rfl
  exact .after hc (pollAct_inPoll ..)

theorem statusAnswered_inPoll (rx : List Byte) (s : State) :
    InPoll s (statusAnswered (.poll .host) rx s) := by
  unfold statusAnswered
  dsimp only
  split
  · exact .after (.of rfl) (pollDecide_inPoll _)
  · exact ⟨.of rfl, .inl rfl⟩

theorem owner_of_poll {k : ExchCaller} (hk : k.poll? = some .host) : k.owner = .host := by
  cases k <;> try cases hk
  all_goals first | rfl | skip
  all_goals rename_i p; cases p <;> cases hk; rfl

theorem exchangeReturn_inPoll {k : ExchCaller} (hk : k.poll? = some .host) (s : State) :
    InPoll s (exchangeReturn k s) := by
  cases k with
  | pollWrite c => cases hk; exact ⟨.of rfl, .inr rfl⟩
  | pollRun c => cases hk; exact pollNext_inPoll s
  | pollBump c => cases hk; exact .after (.of rfl) (pollNext_inPoll _)
  | porWrite p =>
    cases p <;> cases hk
    exact ⟨.of rfl, .inr rfl⟩
  | porRun p =>
    cases p <;> cases hk
    exact pollNext_inPoll s
  | _ => cases hk

theorem sampled_inPoll {k : ExchCaller} (hk : k.poll? = some .host) (b : Bool) (s : State) :
    InPoll s (sampled k b s) := by
  unfold sampled
  split
  · rw [owner_of_poll hk]
    exact ⟨.of rfl, .inl rfl⟩
  · exact exchangeReturn_inPoll hk s

/-- An answer taken by a poll of the host. -/
theorem feed_inPoll {a : Answer} {s t : State} (hp : s.phase.poll? = some .host)
    (h : feed a s = .next t) : InPoll s t := by
  have hi : s.phase ≠ .idle := by
    intro hi
    rw [hi] at hp
    cases hp
  have status : ∀ {c : StatusCaller}, c.poll? = some .host → c = .poll .host := fun {c} hc => by
    cases c <;> cases hc
    rfl
  have emits : ∀ es, PollLoopFrame s (emit es s) := fun _ => .of rfl
  cases feed_fed hi h with
  | speed hs =>
    rw [hs] at hp
    cases hp
  | @select _ ok hs =>
    rw [hs] at hp
    cases ok <;> exact ⟨.of rfl, .inr hp⟩
  | @selectAgain _ ok hs =>
    rw [hs] at hp
    obtain rfl := status hp
    cases ok
    · exact ⟨.of rfl, .inl rfl⟩
    · exact ⟨.of rfl, .inr rfl⟩
  | status hs =>
    rw [hs] at hp
    obtain rfl := status hp
    exact .after (emits _) (statusAnswered_inPoll ..)
  | statusFail hs =>
    rw [hs] at hp
    obtain rfl := status hp
    exact ⟨.of rfl, .inl rfl⟩
  | block hs =>
    obtain hs | hs := hs <;> rw [hs] at hp <;>
    · refine ⟨(blockAnswered_exchangeFrame ..).1.poll, .inr ?_⟩
      simp only [blockAnswered]
      split <;> exact hp
  | blockFail hs | smart hs =>
    rw [hs] at hp
    exact ⟨.of rfl, .inr hp⟩
  | retryFail hs =>
    rw [hs] at hp
    rw [owner_of_poll hp]
    exact ⟨.of rfl, .inl rfl⟩
  | powerBit hs | bit hs =>
    rw [hs] at hp
    exact .after (emits _) (sampled_inPoll hp ..)

end Sys2Proof.Machine
end

