-- ==== Sys2Proof/Laws/PerInstr.lean ====
section
/-! SUPPORT. One lemma for each constructor: where an operation has a host word, its operation byte has
bits 7:5 zero and a number of 0x01 to 0x18 (R86, R89). -/

namespace Sys2Proof.Laws.HostCode

/-- The host byte of an operation that has one is a used code (R86, R89, R90 a). -/
def Statement (i : Instr) : Prop :=
  ∀ w, hostWord i = some w → opHigh w.op = 0 ∧ 1 ≤ opNumber w.op ∧ opNumber w.op ≤ 0x18

/-- An operation whose host byte is known. -/
theorem of_word {i : Instr} {op : Byte} {p : Ports} (h : hostWord i = some ⟨op, p⟩)
    (h' : opHigh op = 0 ∧ 1 ≤ opNumber op ∧ opNumber op ≤ 0x18) : Statement i := by
  intro w hw
  rw [h] at hw
  cases hw
  exact h'

/-- An operation without a host code (R88, R89). -/
theorem of_none {i : Instr} (h : hostWord i = none) : Statement i := by
  intro w hw
  rw [h] at hw
  cases hw

theorem tomillis (code : Int) : Statement (.tomillis code) := of_word rfl (by decide)

theorem setbase (ms : Nat) : Statement (.setbase ms) := of_word rfl (by decide)

theorem setincr (ms : Nat) : Statement (.setincr ms) := of_word rfl (by decide)

theorem crc16 (seed : Half) (data : List Byte) : Statement (.crc16 seed data) := of_word rfl (by decide)

theorem correction (length : Int) : Statement (.correction length) := of_word rfl (by decide)

theorem validate (crc : Half) (length : Int) : Statement (.validate crc length) := of_word rfl (by decide)

theorem fraginit (payload : List Byte) : Statement (.fraginit payload) := of_word rfl (by decide)

theorem nextheader : Statement (.nextheader) := of_word rfl (by decide)

theorem nextdata : Statement (.nextdata) := of_word rfl (by decide)

theorem acceptblock (header : List Byte) (data : List Byte) (snap : Snapshot) : Statement (.acceptblock header data snap) := of_word rfl (by decide)

theorem finish : Statement (.finish) := of_word rfl (by decide)

theorem decodestatus (bytes : List Byte) : Statement (.decodestatus bytes) := of_word rfl (by decide)

theorem readstatus : Statement (.readstatus) := of_word rfl (by decide)

theorem writestatus (code : Int) : Statement (.writestatus code) := of_word rfl (by decide)

theorem poll (dir : Dir) (code : Int) : Statement (.poll dir code) := of_word rfl (by decide)

theorem exchange (cmdbytes : List Byte) (rel : List Byte) (power : Bool) (ms : Nat) : Statement (.exchange cmdbytes rel power ms) := of_word rfl (by decide)

theorem run (code : Int) : Statement (.run code) := of_word rfl (by decide)

theorem interrupt (code : Int) : Statement (.interrupt code) := of_word rfl (by decide)

theorem devreset : Statement (.devreset) := of_word rfl (by decide)

theorem writeheader (h : List Byte) : Statement (.writeheader h) := of_word rfl (by decide)

theorem readheader : Statement (.readheader) := of_word rfl (by decide)

theorem writedata (d : List Byte) : Statement (.writedata d) := of_word rfl (by decide)

theorem readdata (n : Nat) : Statement (.readdata n) := of_word rfl (by decide)

theorem transfer (payload : List Byte) (code : Int) : Statement (.transfer payload code) := of_word rfl (by decide)

theorem porrecover : Statement (.porrecover) := of_none rfl

theorem wireWriteHeader (h : List Byte) : Statement (.wireWriteHeader h) := of_none rfl

theorem wireReadHeader : Statement (.wireReadHeader) := of_none rfl

theorem wireWriteData (d : List Byte) : Statement (.wireWriteData d) := of_none rfl

theorem wireReadData (n : Nat) : Statement (.wireReadData n) := of_none rfl

theorem wireRun (ms : Nat) : Statement (.wireRun ms) := of_none rfl

theorem wireInterrupt (ms : Nat) : Statement (.wireInterrupt ms) := of_none rfl

theorem wireReset : Statement (.wireReset) := of_none rfl

theorem wireWriteStatus (code : Code) : Statement (.wireWriteStatus code) := of_none rfl

theorem wireReadStatus : Statement (.wireReadStatus) := of_none rfl

end Sys2Proof.Laws.HostCode
end

