-- ==== Sys2Proof/Tests/Slice0.lean ====
section
/-! SUPPORT. The model's own tests. Every expected value is from the spec: the encodings of
30_encoding R86, R88, R89, the fixture configuration REFCFG of 00_scope R7, and the vectors of
95_test_vectors section 2 and 3, named in each docstring. Then one witness for the hypotheses of each
obligation that has some. -/

namespace Sys2Proof.Tests

open Sys2Proof.Machine

-- One theorem at a time: the kernel's evaluations then share one stack.
set_option Elab.async false

/-! ### The fixture -/

/-- REFCFG (R7). -/
def refCfg : Cfg where
  selectCmd := 0x55
  cmdWriteHeader := 0xA1
  cmdReadHeader := 0xA2
  cmdWriteData := 0xA3
  cmdReadData := 0xA4
  cmdRun := 0xA5
  cmdInterrupt := 0xA6
  cmdReset := 0xA7
  cmdReadStatus := 0xA8
  cmdWriteStatus := 0xA9
  relWriteHeader := .two 0xB1 0x1B
  relReadHeader := .two 0xB2 0x2B
  relWriteData := .two 0xB3 0x3B
  relReadData := .two 0xB4 0x4B
  relRun := ⟨0xB5, 0x5B⟩
  relInterrupt := ⟨0xB6, 0x6B⟩
  relReset := ⟨0xB7, 0x7B⟩
  relWriteStatus := ⟨0xB9, 0x9B⟩
  pwrWriteHeader := false
  pwrReadHeader := false
  pwrWriteData := false
  pwrReadData := false
  pwrWriteStatus := false
  scNeedsMoreTime := 0x1F
  scFirstBirthday := 0x1D
  scMasterErase := 0x1E
  scResponseIncomplete := 0x04
  scVmIncomplete := 0x03
  scCommandComplete := 0x0B
  freeDontcareMask := 0x80
  blockCrcSeed := 0
  statusCrcSeed := 0
  crcFn := .oneWire
  crcFieldXor := 0xFFFF
  tableFeed := .le16
  notUnderstoodBit := true
  chkFn := .byteSum
  baseReset := 63
  incrReset := 250
  minReadRtReset := 0

/-- The fixture address. -/
def refAddr : Addr := #v[0x96, 0x11, 0x22, 0x33, 0x44, 0x55, 0x66, 0x7A]

/-- After block reset (R290), for the fixture. -/
def s0 : State := State.initial refCfg refAddr

/-- `s0` with answers at hand. -/
def withAnswers (as : List Answer) : State := { s0 with answers := as }

/-- The marker and the address that begin every frame of section 2.7. -/
def front : List Byte := [0x55, 0x96, 0x11, 0x22, 0x33, 0x44, 0x55, 0x66, 0x7A]

/-- `rx=same` for a frame with the given bytes after the address. -/
def same (tail : List Byte) : Answer := .block (front ++ tail)

/-- `F(name, body)`: a frame answered by itself, status bit 0. -/
def fAns (tail : List Byte) : List Answer := [same tail, .bit false]

/-- `RUN`: a run frame answered by itself, smart power, status bit 0. -/
def runAns : List Answer := [same [0xA5, 0xB5, 0x5B], .smart true, .bit false]

/-- `S(..)`: the device selected, the status reply. -/
def sAns (rx : List Byte) : List Answer := [.selected true, .block rx]

def clean : List Byte := [0xA8, 0x78, 0x00, 0x00, 0x00, 0x86, 0x87]
def cc : List Byte := [0xA8, 0x78, 0x08, 0x0B, 0x00, 0x00, 0x75]
def cnc : List Byte := [0xA8, 0x78, 0x00, 0x20, 0x00, 0x9F, 0x47]
def por : List Byte := [0xA8, 0x78, 0x00, 0x40, 0x00, 0xB7, 0x47]
def busyReply : List Byte := [0xA8, 0x78, 0x00, 0x00, 0x01, 0x47, 0x47]
def firstBirthday : List Byte := [0xA8, 0x78, 0x00, 0x1D, 0x00, 0x8F, 0xD7]
def masterErase : List Byte := [0xA8, 0x78, 0x00, 0x1E, 0x00, 0x8F, 0x27]
def respIncomplete : List Byte := [0xA8, 0x78, 0x00, 0x04, 0x00, 0x84, 0x47]
def vmIncomplete0 : List Byte := [0xA8, 0x78, 0x00, 0x03, 0x00, 0x86, 0x77]
def used5 : List Byte := [0xA8, 0x78, 0x05, 0x00, 0x00, 0x96, 0x86]
def free7 : List Byte := [0xA8, 0x07, 0x00, 0x00, 0x00, 0x9F, 0x53]
def drift : List Byte := [0xA8, 0x78, 0x00, 0x00, 0x00, 0x82, 0x7B]
def badStatus : List Byte := [0xA8, 0x78, 0x00, 0x00, 0x00, 0x86, 0x86]

/-- What `clean` decodes to: free 0x78, nothing else. -/
def cleanSnap : Snapshot := ⟨0x78, 0, false, false, 0, false⟩
/-- What `cc` decodes to: used 8, "command complete". -/
def ccSnap : Snapshot := ⟨0x78, 8, false, false, 0x0B, false⟩

/-- The result after a step, if it went on. -/
def resultOf : Outcome → Option Result
  | .next s => s.result
  | _ => none

/-- The events after a step, if it went on. -/
def traceOf : Outcome → List Event
  | .next s => s.trace
  | _ => []

/-- The state after a step, if it went on. -/
def stateOf : Outcome → Option State
  | .next s => some s
  | _ => none

/-- The host byte of R86: bits 7:5 zero, bits 4:0 the number. -/
def word (op : Byte) (p : Ports := Ports.zero) : HostWord := ⟨op, p⟩

/-! ### Well-formedness: one ill-formed term for each check -/

theorem test_wf_setbase : (Instr.setbase (2 ^ 32)).wf = false := by decide
theorem test_wf_setincr : (Instr.setincr (2 ^ 32)).wf = false := by decide
theorem test_wf_acceptblock :
    (Instr.acceptblock (List.replicate 7 0) [] cleanSnap).wf = false := by decide
theorem test_wf_decodestatus : (Instr.decodestatus [0, 0, 0]).wf = false := by decide
theorem test_wf_exchange_noCommand : (Instr.exchange [] [0, 0] false 0).wf = false := by decide
theorem test_wf_exchange_longCommand :
    (Instr.exchange (List.replicate 122 0) [0, 0] false 0).wf = false := by decide +kernel
theorem test_wf_exchange_release : (Instr.exchange [0] [0] false 0).wf = false := by decide
theorem test_wf_writeheader : (Instr.writeheader (List.replicate 7 0)).wf = false := by decide
theorem test_wf_writedata_empty : (Instr.writedata []).wf = false := by decide
theorem test_wf_writedata_long : (Instr.writedata (List.replicate 121 0)).wf = false := by decide +kernel
theorem test_wf_readdata : (Instr.readdata 121).wf = false := by decide
theorem test_wf_wireWriteHeader : (Instr.wireWriteHeader (List.replicate 9 0)).wf = false := by decide
theorem test_wf_wireWriteData : (Instr.wireWriteData []).wf = false := by decide
theorem test_wf_wireReadData : (Instr.wireReadData 121).wf = false := by decide
theorem test_wf_writedata_full : (Instr.writedata (List.replicate 120 0)).wf = true := by decide

/-! ### Decoding: one written-out word for each constructor (R86, R89) -/

theorem test_decode_tomillis :
    decodeHost (word 0b00000001 { Ports.zero with code := -1 }) = .ok (.tomillis (-1)) := by decide
theorem test_decode_setbase :
    decodeHost (word 0b00000010 { Ports.zero with ms := 63 }) = .ok (.setbase 63) := by decide
theorem test_decode_setincr :
    decodeHost (word 0b00000011 { Ports.zero with ms := 250 }) = .ok (.setincr 250) := by decide
theorem test_decode_crc16 :
    decodeHost (word 0b00000100 { Ports.zero with seed := 0x1234, data := [7] })
      = .ok (.crc16 0x1234 [7]) := by decide
theorem test_decode_correction :
    decodeHost (word 0b00000101 { Ports.zero with length := 139 }) = .ok (.correction 139) := by decide
theorem test_decode_validate :
    decodeHost (word 0b00000110 { Ports.zero with crc := 0x200C, length := 5 })
      = .ok (.validate 0x200C 5) := by decide
theorem test_decode_fraginit :
    decodeHost (word 0b00000111 { Ports.zero with payload := [0xCA, 0xFE] })
      = .ok (.fraginit [0xCA, 0xFE]) := by decide
theorem test_decode_nextheader : decodeHost (word 0b00001000) = .ok .nextheader := by decide
theorem test_decode_nextdata : decodeHost (word 0b00001001) = .ok .nextdata := by decide
theorem test_decode_acceptblock :
    decodeHost (word 0b00001010 { Ports.zero with
      header := [0x80, 1, 1, 0, 0x7E, 0x10, 0, 0], data := [0xAA], snap := ccSnap })
      = .ok (.acceptblock [0x80, 1, 1, 0, 0x7E, 0x10, 0, 0] [0xAA] ccSnap) := by decide
theorem test_decode_finish : decodeHost (word 0b00001011) = .ok .finish := by decide
theorem test_decode_decodestatus :
    decodeHost (word 0b00001100 { Ports.zero with bytes := [0x78, 0, 0, 0] })
      = .ok (.decodestatus [0x78, 0, 0, 0]) := by decide
theorem test_decode_readstatus : decodeHost (word 0b00001101) = .ok .readstatus := by decide
theorem test_decode_writestatus :
    decodeHost (word 0b00001110 { Ports.zero with code := 20 }) = .ok (.writestatus 20) := by decide
theorem test_decode_poll :
    decodeHost (word 0b00001111 { Ports.zero with dir := some .receive, code := 2 })
      = .ok (.poll .receive 2) := by decide
theorem test_decode_exchange :
    decodeHost (word 0b00010000 { Ports.zero with
      cmdbytes := [0xA7], rel := [0xB7, 0x7B], power := true, ms := 63 })
      = .ok (.exchange [0xA7] [0xB7, 0x7B] true 63) := by decide
theorem test_decode_run :
    decodeHost (word 0b00010001 { Ports.zero with code := 3 }) = .ok (.run 3) := by decide
theorem test_decode_interrupt :
    decodeHost (word 0b00010010 { Ports.zero with code := 1 }) = .ok (.interrupt 1) := by decide
theorem test_decode_devreset : decodeHost (word 0b00010011) = .ok .devreset := by decide
theorem test_decode_writeheader :
    decodeHost (word 0b00010100 { Ports.zero with h := [0x80, 2, 2, 0, 0x89, 0x1F, 0xC8, 1] })
      = .ok (.writeheader [0x80, 2, 2, 0, 0x89, 0x1F, 0xC8, 1]) := by decide
theorem test_decode_readheader : decodeHost (word 0b00010101) = .ok .readheader := by decide
theorem test_decode_writedata :
    decodeHost (word 0b00010110 { Ports.zero with d := [0xCA, 0xFE] })
      = .ok (.writedata [0xCA, 0xFE]) := by decide
theorem test_decode_readdata :
    decodeHost (word 0b00010111 { Ports.zero with n := 5 }) = .ok (.readdata 5) := by decide
theorem test_decode_transfer :
    decodeHost (word 0b00011000 { Ports.zero with payload := [0xCA, 0xFE], code := 4 })
      = .ok (.transfer [0xCA, 0xFE] 4) := by decide
/-- R89, last row: PORRECOVER has no code. -/
theorem test_decode_porrecover : decode refCfg .internal = .ok .porrecover := rfl

/-! The frames of R88, as section 2.7 writes them out. -/

theorem test_decode_wireWriteHeader :
    decode refCfg (.wire [0x55, 0x96, 0x11, 0x22, 0x33, 0x44, 0x55, 0x66, 0x7A, 0xA1,
      0x80, 0x02, 0x02, 0x00, 0x89, 0x1F, 0xC8, 0x01, 0xB1, 0x1B] 0)
      = .ok (.wireWriteHeader [0x80, 0x02, 0x02, 0x00, 0x89, 0x1F, 0xC8, 0x01]) := by decide
theorem test_decode_wireReadHeader :
    decode refCfg (.wire [0x55, 0x96, 0x11, 0x22, 0x33, 0x44, 0x55, 0x66, 0x7A, 0xA2,
      0xFF, 0xFF, 0xFF, 0xFF, 0xFF, 0xFF, 0xFF, 0xFF, 0xB2, 0x2B] 0) = .ok .wireReadHeader := by decide
theorem test_decode_wireWriteData :
    decode refCfg (.wire [0x55, 0x96, 0x11, 0x22, 0x33, 0x44, 0x55, 0x66, 0x7A, 0xA3,
      0xCA, 0xFE, 0xB3, 0x3B] 0) = .ok (.wireWriteData [0xCA, 0xFE]) := by decide
theorem test_decode_wireReadData :
    decode refCfg (.wire [0x55, 0x96, 0x11, 0x22, 0x33, 0x44, 0x55, 0x66, 0x7A, 0xA4,
      0xFF, 0xFF, 0xFF, 0xFF, 0xFF, 0xB4, 0x4B] 0) = .ok (.wireReadData 5) := by decide
theorem test_decode_wireRun :
    decode refCfg (.wire [0x55, 0x96, 0x11, 0x22, 0x33, 0x44, 0x55, 0x66, 0x7A, 0xA5, 0xB5, 0x5B] 813)
      = .ok (.wireRun 813) := by decide
theorem test_decode_wireInterrupt :
    decode refCfg (.wire [0x55, 0x96, 0x11, 0x22, 0x33, 0x44, 0x55, 0x66, 0x7A, 0xA6, 0xB6, 0x6B] 313)
      = .ok (.wireInterrupt 313) := by decide
theorem test_decode_wireReset :
    decode refCfg (.wire [0x55, 0x96, 0x11, 0x22, 0x33, 0x44, 0x55, 0x66, 0x7A, 0xA7, 0xB7, 0x7B] 0)
      = .ok .wireReset := by decide
theorem test_decode_wireWriteStatus :
    decode refCfg (.wire [0x55, 0x96, 0x11, 0x22, 0x33, 0x44, 0x55, 0x66, 0x7A, 0xA9, 0x0F, 0xB9, 0x9B]
      0) = .ok (.wireWriteStatus 15) := by decide
theorem test_decode_wireReadStatus :
    decode refCfg (.wire [0xA8, 0xFF, 0xFF, 0xFF, 0xFF, 0xFF, 0xFF] 0) = .ok .wireReadStatus := by decide

/-! Refusals (section 2.8 and R81, R82, R88). -/

theorem test_refuse_unusedLow : decodeHost (word 0x00) = .error .unusedCode := by decide
theorem test_refuse_unusedHigh : decodeHost (word 0x19) = .error .unusedCode := by decide
theorem test_refuse_reserved : decodeHost (word 0x21) = .error .reservedBits := by decide
theorem test_refuse_operand :
    decodeHost (word 0x17 { Ports.zero with n := 121 }) = .error .operandType := by decide
theorem test_refuse_direction :
    decodeHost (word 0x0F { Ports.zero with dir := none }) = .error .operandType := by decide
theorem test_refuse_frameLength : decode refCfg (.wire front 0) = .error .frameLength := by decide
theorem test_refuse_frameMarker :
    decode refCfg (.wire (List.replicate 12 0) 0) = .error .frameMarker := by decide
theorem test_refuse_frameCommand :
    decode refCfg (.wire (front ++ [0xA8, 0, 0]) 0) = .error .frameCommand := by decide
theorem test_refuse_frameBody :
    decode refCfg (.wire (front ++ [0xA5, 0xB5, 0x5C]) 0) = .error .frameBody := by decide

/-! ### One step for each operation -/

/-- Section 2.1. -/
theorem test_tomillis_top : resultOf (exec (.tomillis 16) s0) = some (.ok (.ms 3813)) := by decide
theorem test_tomillis_negative : resultOf (exec (.tomillis (-1)) s0) = some (.ok (.ms 63)) := by decide

/-- Section 2.1: below 63 refused, the register as it was. -/
theorem test_setbase_range :
    exec (.setbase 62) s0 = .next { s0 with result := some (.err ⟨.range, .base⟩) } := rfl
theorem test_setbase_ok :
    exec (.setbase 100) s0 = .next { s0 with tBase := 100, result := some (.ok .none) } := rfl
theorem test_setincr_range :
    exec (.setincr 249) s0 = .next { s0 with result := some (.err ⟨.range, .increment⟩) } := rfl
theorem test_setincr_ok :
    exec (.setincr 250) s0 = .next { s0 with tIncr := 250, result := some (.ok .none) } := rfl

/-- Section 2.2: the nine ASCII digits; a seed that is not 0. -/
theorem test_crc16_digits :
    resultOf (exec (.crc16 0 [0x31, 0x32, 0x33, 0x34, 0x35, 0x36, 0x37, 0x38, 0x39]) s0)
      = some (.ok (.half 0xBB3D)) := by decide +kernel
theorem test_crc16_seed :
    resultOf (exec (.crc16 0x1234 [7, 1, 2, 3]) s0) = some (.ok (.half 0xE0BF)) := by decide +kernel

theorem test_correction_status :
    resultOf (exec (.correction 7) s0) = some (.ok (.half 0x8102)) := by decide +kernel
theorem test_correction_outside :
    resultOf (exec (.correction 140) s0) = some (.ok (.half 0)) := by decide

theorem test_validate_compensated :
    resultOf (exec (.validate 0x200C 5) s0) = some (.ok .none) := by decide +kernel
theorem test_validate_otherLength :
    resultOf (exec (.validate 0x200C 4) s0) = some (.err ⟨.crc, .none⟩) := by decide +kernel

/-- `s0` with `CA FE` loaded (section 2.3). -/
def loaded : State := { s0 with pay := [0xCA, 0xFE], plen := 2, more := true, fragValid := true }

theorem test_fraginit_loads :
    exec (.fraginit [0xCA, 0xFE]) s0 = .next { loaded with result := some (.ok .none) } := rfl
theorem test_fraginit_empty :
    exec (.fraginit []) loaded
      = .next { loaded with fragValid := false, result := some (.err ⟨.invalidPayload, .none⟩) } := rfl

/-- Section 2.3, step by step: the header of `CA FE` and the registers after it. -/
theorem test_nextheader_registers :
    (stateOf (exec .nextheader loaded)).map (fun s => (s.cursor, s.seq, s.chk, s.more, s.curLen))
      = some (2, 1, 0x01C8, false, 2) := by decide
theorem test_nextheader_header :
    resultOf (exec .nextheader loaded)
      = some (.ok (.bytes [0x80, 0x02, 0x02, 0x00, 0x89, 0x1F, 0xC8, 0x01])) := by decide +kernel
theorem test_nextheader_order :
    resultOf (exec .nextheader s0) = some (.err ⟨.order, .none⟩) := by decide

theorem test_nextdata_slice :
    resultOf (exec .nextdata { loaded with cursor := 2, more := false, curLen := 2 })
      = some (.ok (.bytes [0xCA, 0xFE])) := by decide
theorem test_nextdata_order :
    resultOf (exec .nextdata loaded) = some (.err ⟨.order, .none⟩) := by decide

/-- Section 2.4: a compensated block; a block with a length that is not its header's. -/
theorem test_acceptblock_compensated :
    (stateOf (exec (.acceptblock [0x80, 5, 5, 0, 0x83, 0x6A, 0, 0] [0, 0, 0, 0x90, 0] ccSnap)
      loaded)).map (fun s => (s.acc, s.result))
      = some ([0x90, 0], some (.ok (.complete true))) := by decide +kernel
theorem test_acceptblock_length :
    resultOf (exec (.acceptblock [0x80, 5, 5, 0, 0x93, 0xAA, 0, 0] [0, 0, 0, 0x90] ccSnap) loaded)
      = some (.err ⟨.order, .none⟩) := by decide

theorem test_finish_reply :
    resultOf (exec .finish { loaded with acc := [1, 2, 3] }) = some (.ok (.bytes [1, 2, 3])) := by decide
theorem test_finish_order : resultOf (exec .finish s0) = some (.err ⟨.order, .none⟩) := by decide

/-- Section 2.5. -/
theorem test_decodestatus_flags :
    resultOf (exec (.decodestatus [0xF8, 0x08, 0x6B, 0x03]) s0)
      = some (.ok (.snapshot ⟨0x78, 8, true, true, 0x0B, true⟩)) := by decide
theorem test_decodestatus_ignored :
    resultOf (exec (.decodestatus [0x00, 0x00, 0x80, 0xFE]) s0)
      = some (.ok (.snapshot ⟨0, 0, false, false, 0, false⟩)) := by decide

theorem test_readstatus_drift :
    resultOf (exec .readstatus (withAnswers (sAns drift))) = some (.ok (.snapshot cleanSnap)) := by
  decide +kernel
theorem test_readstatus_bad :
    resultOf (exec .readstatus (withAnswers (sAns badStatus))) = some (.err ⟨.crc, .status⟩) := by
  decide +kernel

/-- Section 2.7: code 20 is clamped to 15. -/
theorem test_writestatus_frame :
    traceOf (exec (.writestatus 20) (withAnswers (fAns [0xA9, 0x0F, 0xB9, 0x9B])))
      = [.dataBlock (front ++ [0xA9, 0x0F, 0xB9, 0x9B]) (some (front ++ [0xA9, 0x0F, 0xB9, 0x9B])),
         .getBit false] := by decide

/-- Section 2.6: `used5` for RECEIVE; `por` not armed. -/
theorem test_poll_badHeader :
    resultOf (exec (.poll .receive 0) (withAnswers (sAns used5))) = some (.err ⟨.badHeader, .none⟩) := by
  decide +kernel
theorem test_poll_por :
    resultOf (exec (.poll .send 0) (withAnswers (sAns por))) = some (.err ⟨.porUncorrected, .none⟩) := by
  decide +kernel

/-- R94: the bytes under the command and under the release code. -/
theorem test_exchange_replies :
    resultOf (exec (.exchange [0xA4, 0xFF] [0xB4, 0x4B] false 0)
      (withAnswers [same [1, 2, 3, 4], .bit false])) = some (.ok (.replies [1, 2] [3, 4])) := by decide

/-- Section 2.7: the power sequence with `Sleep(813)`. -/
theorem test_run_power :
    traceOf (exec (.run 3) (withAnswers runAns))
      = [.dataBlock (front ++ [0xA5, 0xB5, 0x5B]) (some (front ++ [0xA5, 0xB5, 0x5B])),
         .canDeliverSmartPower true, .setPowerDuration .smart, .startPowerDelivery .afterBit,
         .getBit false, .sleep 813, .setPowerNormal] := by decide
/-- R203: the wait and the return to normal power come before the error. -/
theorem test_run_notUnderstood :
    resultOf (exec (.run 0) (withAnswers [same [0xA5, 0xB5, 0x5B], .smart false, .bit true]))
      = some (.err ⟨.notUnderstood, .none⟩) := by decide
theorem test_interrupt_wait :
    sleeps (traceOf (exec (.interrupt 1) (withAnswers [same [0xA6, 0xB6, 0x6B], .smart true, .bit false])))
      = [313] := by decide

/-- Section 2.7: the first `DataBlock` fails. -/
theorem test_devreset_recovery :
    traceOf (exec .devreset (withAnswers (.fail :: fAns [0xA7, 0xB7, 0x7B])))
      = [.dataBlock (front ++ [0xA7, 0xB7, 0x7B]) none, .busReset, .speedSet .regular,
         .renegotiateSpeed, .busReset,
         .dataBlock (front ++ [0xA7, 0xB7, 0x7B]) (some (front ++ [0xA7, 0xB7, 0x7B])),
         .getBit false] := by decide
/-- Program P16, second half: the warning, and `55` sent all the same. -/
theorem test_devreset_warning :
    traceOf (exec .devreset { withAnswers (fAns [0xA7, 0xB7, 0x7B]) with sel0 := 0 })
      = [.warn .firstByte,
         .dataBlock (front ++ [0xA7, 0xB7, 0x7B]) (some (front ++ [0xA7, 0xB7, 0x7B])),
         .getBit false] := by decide

theorem test_writeheader_sent :
    sent (traceOf (exec (.writeheader [0x80, 2, 2, 0, 0x89, 0x1F, 0xC8, 1])
      (withAnswers (fAns [0xA1, 0x80, 2, 2, 0, 0x89, 0x1F, 0xC8, 1, 0xB1, 0x1B]))))
      = [front ++ [0xA1, 0x80, 2, 2, 0, 0x89, 0x1F, 0xC8, 1, 0xB1, 0x1B]] := by decide
theorem test_readheader_reply :
    resultOf (exec .readheader
      (withAnswers (fAns [0xA2, 0x80, 5, 5, 0, 0x93, 0xAA, 0, 0, 0xB2, 0x2B])))
      = some (.ok (.bytes [0x80, 5, 5, 0, 0x93, 0xAA, 0, 0])) := by decide
theorem test_writedata_sent :
    sent (traceOf (exec (.writedata [0xCA, 0xFE]) (withAnswers (fAns [0xA3, 0xCA, 0xFE, 0xB3, 0x3B]))))
      = [front ++ [0xA3, 0xCA, 0xFE, 0xB3, 0x3B]] := by decide
theorem test_readdata_reply :
    resultOf (exec (.readdata 5) (withAnswers (fAns [0xA4, 0, 0, 0, 0x90, 0, 0xB4, 0x4B])))
      = some (.ok (.bytes [0, 0, 0, 0x90, 0])) := by decide
theorem test_readdata_none :
    resultOf (exec (.readdata 0) (withAnswers (fAns [0xA4, 0xB4, 0x4B]))) = some (.ok (.bytes [])) := by
  decide

/-- The answers of program P1. -/
def p1Answers : List Answer :=
  [.speed .overdrive] ++ sAns clean
    ++ fAns [0xA1, 0x80, 2, 2, 0, 0x89, 0x1F, 0xC8, 1, 0xB1, 0x1B]
    ++ fAns [0xA3, 0xCA, 0xFE, 0xB3, 0x3B] ++ fAns [0xA9, 0, 0xB9, 0x9B] ++ runAns ++ sAns cc
    ++ fAns [0xA2, 0x80, 5, 5, 0, 0x93, 0xAA, 0, 0, 0xB2, 0x2B]
    ++ fAns [0xA4, 0, 0, 0, 0x90, 0, 0xB4, 0x4B]

/-- Program P1: the reply. -/
theorem test_transfer_p1 :
    resultOf (exec (.transfer [0xCA, 0xFE] 0) (withAnswers p1Answers))
      = some (.ok (.bytes [0x90, 0])) := by decide +kernel
/-- Program P8: the bus at regular speed. -/
theorem test_transfer_p8 :
    traceOf (exec (.transfer [1] 0) (withAnswers [.speed .regular])) = [.speedGet .regular] := by decide

/-- Section 2.6, last paragraph: with `POR_ADJUST = 2`. -/
theorem test_porrecover_calls :
    traceOf (exec .porrecover { withAnswers (fAns [0xA9, 2, 0xB9, 0x9B] ++ runAns) with porAdjust := 2 })
      = [.busReset,
         .dataBlock (front ++ [0xA9, 2, 0xB9, 0x9B]) (some (front ++ [0xA9, 2, 0xB9, 0x9B])),
         .getBit false,
         .dataBlock (front ++ [0xA5, 0xB5, 0x5B]) (some (front ++ [0xA5, 0xB5, 0x5B])),
         .canDeliverSmartPower true, .setPowerDuration .smart, .startPowerDelivery .afterBit,
         .getBit false, .sleep 563, .setPowerNormal] := by decide

/-! The wire commands put their frames of R88 on the bus. -/

theorem test_wireWriteHeader_sent :
    sent (traceOf (exec (.wireWriteHeader [0x80, 2, 2, 0, 0x89, 0x1F, 0xC8, 1])
      (withAnswers (fAns [0xA1, 0x80, 2, 2, 0, 0x89, 0x1F, 0xC8, 1, 0xB1, 0x1B]))))
      = [front ++ [0xA1, 0x80, 2, 2, 0, 0x89, 0x1F, 0xC8, 1, 0xB1, 0x1B]] := by decide
theorem test_wireReadHeader_sent :
    sent (traceOf (exec .wireReadHeader
      (withAnswers (fAns [0xA2, 0x80, 5, 5, 0, 0x93, 0xAA, 0, 0, 0xB2, 0x2B]))))
      = [front ++ [0xA2, 0xFF, 0xFF, 0xFF, 0xFF, 0xFF, 0xFF, 0xFF, 0xFF, 0xB2, 0x2B]] := by decide
theorem test_wireWriteData_sent :
    sent (traceOf (exec (.wireWriteData [0xCA, 0xFE])
      (withAnswers (fAns [0xA3, 0xCA, 0xFE, 0xB3, 0x3B]))))
      = [front ++ [0xA3, 0xCA, 0xFE, 0xB3, 0x3B]] := by decide
theorem test_wireReadData_sent :
    sent (traceOf (exec (.wireReadData 5) (withAnswers (fAns [0xA4, 0, 0, 0, 0x90, 0, 0xB4, 0x4B]))))
      = [front ++ [0xA4, 0xFF, 0xFF, 0xFF, 0xFF, 0xFF, 0xB4, 0x4B]] := by decide
theorem test_wireRun_wait :
    sleeps (traceOf (exec (.wireRun 813) (withAnswers runAns))) = [813] := by decide
theorem test_wireInterrupt_sent :
    sent (traceOf (exec (.wireInterrupt 313)
      (withAnswers [same [0xA6, 0xB6, 0x6B], .smart true, .bit false])))
      = [front ++ [0xA6, 0xB6, 0x6B]] := by decide
theorem test_wireReset_sent :
    sent (traceOf (exec .wireReset (withAnswers (fAns [0xA7, 0xB7, 0x7B]))))
      = [front ++ [0xA7, 0xB7, 0x7B]] := by decide
theorem test_wireWriteStatus_sent :
    sent (traceOf (exec (.wireWriteStatus 15) (withAnswers (fAns [0xA9, 0x0F, 0xB9, 0x9B]))))
      = [front ++ [0xA9, 0x0F, 0xB9, 0x9B]] := by decide
theorem test_wireReadStatus_snapshot :
    resultOf (exec .wireReadStatus (withAnswers [.block cc])) = some (.ok (.snapshot ccSnap)) := by
  decide +kernel

/-! ### Witnesses: concrete states and operands that meet the hypotheses of the obligations -/

/-- A step that went on, from what its state shows. -/
theorem ran {α : Type} {o : Outcome} {f : State → α} {a : α} (h : (stateOf o).map f = some a) :
    ∃ s, o = .next s ∧ f s = a := by
  cases o with
  | next s => exact ⟨s, rfl, by simpa [stateOf] using h⟩
  | fault | refused => cases h

theorem ready_s0 : Ready s0 := ⟨rfl, rfl⟩

/-- The fixture is a configuration of this hardware (R7). -/
theorem launch_s0 : Launch s0 := by unfold Launch; decide

theorem good_clean : GoodStatus s0 clean := ⟨rfl, .inl (by decide +kernel)⟩
theorem good_cc : GoodStatus s0 cc := ⟨rfl, .inl (by decide +kernel)⟩
theorem good_cnc : GoodStatus s0 cnc := ⟨rfl, .inl (by decide +kernel)⟩
theorem good_por : GoodStatus s0 por := ⟨rfl, .inl (by decide +kernel)⟩
theorem good_busy : GoodStatus s0 busyReply := ⟨rfl, .inl (by decide +kernel)⟩
theorem good_firstBirthday : GoodStatus s0 firstBirthday := ⟨rfl, .inl (by decide +kernel)⟩
theorem good_masterErase : GoodStatus s0 masterErase := ⟨rfl, .inl (by decide +kernel)⟩
theorem good_respIncomplete : GoodStatus s0 respIncomplete := ⟨rfl, .inl (by decide +kernel)⟩
theorem good_vmIncomplete : GoodStatus s0 vmIncomplete0 := ⟨rfl, .inl (by decide +kernel)⟩
theorem good_used5 : GoodStatus s0 used5 := ⟨rfl, .inl (by decide +kernel)⟩
theorem good_free7 : GoodStatus s0 free7 := ⟨rfl, .inl (by decide +kernel)⟩
/-- `drift` passes with the correction for 7. -/
theorem good_drift : GoodStatus s0 drift := ⟨rfl, .inr (by decide +kernel)⟩
theorem notGood_badStatus : ¬ GoodStatus s0 badStatus := by unfold GoodStatus; decide +kernel

theorem steady_clean : Steady refCfg cleanSnap := by unfold Steady; decide
theorem steady_cc : Steady refCfg ccSnap := by unfold Steady; decide

/-- The invariant holds after block reset of the fixture, whatever is at the ports. -/
theorem inv_s0 (host : List Request) (as : List Answer) : Inv { s0 with host := host, answers := as } := by
  constructor <;>
    simp [s0, State.initial, refCfg, Phase.owner, Phase.sendSide, Phase.receiveSide, Phase.name,
      Phase.exchange, Phase.replied, Const.baseMin, Const.incrMin, Const.maxAttempts]

/-- A transfer of the fixture at its `SpeedGet`. -/
def atSpeed : State :=
  { s0 with lock := true, phase := .tSpeed 0, porArmed := true, answers := [.speed .regular] }

theorem inv_atSpeed : Inv atSpeed := by
  constructor <;>
    simp [atSpeed, s0, State.initial, refCfg, Phase.owner, Phase.sendSide, Phase.receiveSide,
      Phase.name, Phase.exchange, Phase.replied, Const.baseMin, Const.incrMin, Const.maxAttempts]

/-- An answer for each byte of an exchange, understood. -/
def replyTo (x : Exch) : Reply :=
  ⟨false, List.replicate (9 + x.cmd.length + x.rel.length) 0, true, false⟩

/-- A state ready for an exchange with its answers at hand. -/
def readyFor (x : Exch) : State := withAnswers (exchangeAnswers x (replyTo x))

/-- Every exchange meets the hypotheses of `CompletesAs` in the state ready for it. -/
theorem readyFor_completes (x : Exch) : Ready (readyFor x) ∧
    (readyFor x).answers = exchangeAnswers x (replyTo x) ++ [] ∧ (replyTo x).fits x ∧
    (replyTo x).bit ≠ (readyFor x).cfg.notUnderstoodBit := by
  refine ⟨⟨rfl, rfl⟩, (List.append_nil _).symm, List.length_replicate, ?_⟩
  simp [replyTo, readyFor, withAnswers, s0, State.initial, refCfg]

theorem witness_DecodeEncodeRoundTrip :
    refCfg.wf = true ∧ (Instr.wireWriteData (List.replicate 120 0xFF)).wf = true ∧
    (Instr.readdata 120).wf = true := by decide +kernel

theorem witness_DecodeGivesWellFormed :
    decode refCfg (.wire (front ++ [0xA4, 0xB4, 0x4B]) 0) = .ok (.wireReadData 0) := by decide

theorem witness_WordsHaveOneMeaning :
    decodeHost (word 0x18) = .ok (.transfer [0] 0) ∧
    decode refCfg (.wire (front ++ [0xA5, 0xB5, 0x5B]) 63) = .ok (.wireRun 63) ∧
    decode refCfg (.wire (front ++ [0xA4, 0xB4, 0x4B]) 63) = .ok (.wireReadData 0) := by decide

theorem witness_SampleWordsDecode : refCfg.wf = true := by decide

theorem witness_IllegalOperationsChangeNothing :
    ({ s0 with host := [.op (word 0x19)], lock := true } : State).host = .op (word 0x19) :: [] ∧
    decodeHost (word 0x19) = .error .unusedCode ∧ (Instr.readdata 121).wf = false :=
  ⟨rfl, by decide, by decide⟩

theorem witness_StepRunsDecodedOperation :
    decodeHost (word 0x01) = .ok (.tomillis 0) ∧ locks (.tomillis 0) = false ∧
    decodeHost (word 0x0D) = .ok .readstatus ∧ locks .readstatus = true ∧
    Ready { s0 with host := [.op (word 0x0D)] } :=
  ⟨by decide, rfl, by decide, rfl, rfl, rfl⟩

theorem witness_HeldOperationWaits :
    decodeHost (word 0x08) = .ok .nextheader ∧ locks .nextheader = true ∧
    ¬ Ready { s0 with host := [.op (word 0x08)], lock := true, phase := .select .host } ∧
    ∃ s', step { s0 with host := [.op (word 0x08)], lock := true, phase := .select .host }
      = .next s' :=
  ⟨by decide, rfl, by unfold Ready; decide, _, rfl⟩

theorem witness_SetbaseSetsOrRefuses :
    2 ^ 32 ≤ 4294967296 ∧ 62 < 63 ∧ 63 ≤ (63 : BitVec 32).toNat ∧
    63 ≤ (4294967295 : BitVec 32).toNat ∧
    ({ s0 with host := [.op (word 0x02)] } : State).host = .op ⟨0x02, Ports.zero⟩ :: [] :=
  ⟨by decide, by decide, by decide, by decide, rfl⟩

theorem witness_SetincrSetsOrRefuses :
    2 ^ 32 ≤ 4294967296 ∧ 249 < 250 ∧ 250 ≤ (250 : BitVec 32).toNat ∧
    250 ≤ (4294967295 : BitVec 32).toNat ∧
    ({ s0 with host := [.op (word 0x03)] } : State).host = .op ⟨0x03, Ports.zero⟩ :: [] :=
  ⟨by decide, by decide, by decide, by decide, rfl⟩

theorem witness_WaitsAreMonotoneAndBounded :
    s0.tBase ≤ s0.tBase ∧ s0.tIncr ≤ s0.tIncr ∧ (-1 : Int) ≤ 16 ∧ Inv s0 :=
  ⟨BitVec.le_refl _, BitVec.le_refl _, by decide, inv_s0 _ _⟩

theorem witness_Crc16IsTheShiftRegister :
    refCfg.crcFn = .oneWire ∧ ([0x01] : List Byte).length = ([0xFF] : List Byte).length := by decide

theorem witness_OwnCrcLeavesGoodResidual :
    refCfg.crcFn = .oneWire ∧ refCfg.crcFieldXor = 0xFFFF ∧
    ({ refCfg with crcFieldXor := 0 } : Cfg).crcFieldXor = 0 := by decide

theorem witness_CorrectionTableRecurrence :
    refCfg.crcFn = .oneWire ∧ refCfg.tableFeed = .le16 ∧ 137 < 138 ∧
    ∃ v, (corrTable refCfg)[137]? = some v :=
  ⟨rfl, rfl, by decide, Option.isSome_iff_exists.mp (by decide +kernel)⟩

theorem witness_CorrectionLooksUp :
    (0 : Int) < 1 ∧ (139 : Int) < 140 ∧ (∃ v, s0.corr[0]? = some v) ∧ ∃ v, s0.corr[138]? = some v :=
  ⟨by decide, by decide, Option.isSome_iff_exists.mp (by decide +kernel),
    Option.isSome_iff_exists.mp (by decide +kernel)⟩

theorem witness_ValidateAcceptsTwoResiduals :
    (0xB001 : Half) = goodResidual s0.cfg ∧ (0x4584 : Half) ≠ goodResidual s0.cfg ∧
    (1 : Int) ≤ 139 ∧ ∃ v, s0.corr[(139 : Int).toNat - 1]? = some v :=
  ⟨by decide +kernel, by decide +kernel, by decide, Option.isSome_iff_exists.mp (by decide +kernel)⟩

theorem witness_FraginitLoadsOrRefuses :
    Ready s0 ∧ ([0] : List Byte).length = 1 ∧ (List.replicate 16384 (0 : Byte)).length = 16384 ∧
    ([] : List Byte).length = 0 ∧ 16384 < (List.replicate 16385 (0 : Byte)).length :=
  ⟨ready_s0, rfl, List.length_replicate, rfl, by rw [List.length_replicate]; decide⟩

theorem witness_NextheaderFormsTheBlock :
    Ready s0 ∧ s0.fragValid = false ∧ Ready loaded ∧ loaded.fragValid = true ∧ loaded.more = true :=
  ⟨ready_s0, rfl, ⟨rfl, rfl⟩, rfl, rfl⟩

theorem witness_ChecksumIsTheByteSum : refCfg.chkFn = .byteSum := rfl

theorem witness_NextdataGivesTheSlice :
    Ready loaded ∧ loaded.curLen = 0 ∧ Ready { loaded with curLen := 2 } ∧
    ({ loaded with curLen := 2 } : State).fragValid = true ∧
    ({ loaded with curLen := 2 } : State).curLen ≠ 0 :=
  ⟨⟨rfl, rfl⟩, rfl, ⟨rfl, rfl⟩, rfl, by decide⟩

/-- Section 2.4: the residual B001, the residual 200C, the residual F27B, and a length mismatch. -/
theorem witness_AcceptblockChecksAndAppends :
    Ready loaded ∧ loaded.fragValid = true ∧
    ([0, 0, 0, 0x90, 0] : List Byte).length = (5 : Byte).toNat ∧
    crc16 refCfg 0 ([5] ++ [0, 0, 0, 0x90, 0] ++ [0x93, 0xAA]) = goodResidual refCfg ∧
    crc16 refCfg 0 ([5] ++ [0, 0, 0, 0x90, 0] ++ [0x83, 0x6A]) ^^^ correction s0.corr 5
      = goodResidual refCfg ∧
    crc16 refCfg 0 ([5] ++ [0, 0, 0, 0x90, 0] ++ [0x34, 0x12]) ≠ goodResidual refCfg ∧
    crc16 refCfg 0 ([5] ++ [0, 0, 0, 0x90, 0] ++ [0x34, 0x12]) ^^^ correction s0.corr 5
      ≠ goodResidual refCfg ∧
    ([0, 0, 0, 0x90] : List Byte).length ≠ (5 : Byte).toNat :=
  ⟨⟨rfl, rfl⟩, rfl, rfl, by decide +kernel, by decide +kernel, by decide +kernel, by decide +kernel,
    by decide⟩

theorem witness_FinishGivesTheReply :
    Ready s0 ∧ s0.fragValid = false ∧ Ready loaded ∧ loaded.fragValid = true :=
  ⟨ready_s0, rfl, ⟨rfl, rfl⟩, rfl⟩

theorem witness_FragmentingCoversThePayload :
    1 ≤ ([0x5A] : List Byte).length ∧ (List.replicate 16384 (0x5A : Byte)).length ≤ 16384 ∧
    (16384 + 119) / 120 ≤ 137 ∧ (([0x5A] : List Byte).length + 119) / 120 ≤ 1 ∧
    (∃ b, (sendBlocks 1 (fragInit [0x5A] s0).1)[0]? = some b) ∧ s0.cfg.crcFn = .oneWire :=
  ⟨by decide, by rw [List.length_replicate], by decide, by decide,
    Option.isSome_iff_exists.mp (by decide +kernel), rfl⟩

/-- Section 2.3, last lines of 2.4: the block of `CA FE`. -/
theorem witness_SentBlocksAreAccepted :
    ([0x80, 2, 2, 0, 0x89, 0x1F, 0xC8, 1], [0xCA, 0xFE]) ∈ sendBlocks 1 (fragInit [0xCA, 0xFE] s0).1 ∧
    loaded.cfg = s0.cfg ∧ s0.cfg.crcFn = .oneWire ∧ Ready loaded ∧ loaded.fragValid = true :=
  ⟨by decide +kernel, rfl, rfl, ⟨rfl, rfl⟩, rfl⟩

theorem witness_DecodestatusReadsTheBits : Ports.zero.bytes.length = 4 := rfl

theorem witness_ReadstatusReads :
    Ready s0 ∧ GoodStatus s0 drift ∧ badStatus.length = 7 ∧ ¬ GoodStatus s0 badStatus ∧
    (withAnswers (.selected false :: sAns drift)).answers
      = (if true then [.selected false] else []) ++ [.selected true, .block drift] ++ [] ∧
    (withAnswers (sAns badStatus)).answers
      = (if false then [.selected false] else []) ++ [.selected true, .block badStatus] ++ [] ∧
    (withAnswers [.selected true, .fail]).answers
      = (if false then [.selected false] else []) ++ [.selected true, .fail] ++ [] ∧
    (withAnswers [.selected false, .selected false]).answers
      = [.selected false, .selected false] ++ [] :=
  ⟨ready_s0, good_drift, rfl, notGood_badStatus, rfl, rfl, rfl, rfl⟩

/-- An operation of the fixture waiting at a phase, with one answer at hand. -/
def waiting (p : Phase) (a : Answer) : State := { s0 with lock := true, phase := p, answers := [a] }

/-- The calls of a status read one at a time, in the poll of a transfer's send loop. -/
theorem witness_ReadstatusReads_steps :
    (waiting (.select (.poll .sendLoop)) (.selected true)).host = [] ∧
    (waiting (.select (.poll .sendLoop)) (.selected true)).phase = .select (.poll .sendLoop) ∧
    (waiting (.selectAgain (.poll .sendLoop)) (.selected false)).answers = [.selected false] ∧
    (waiting (.statusBlock (.poll .sendLoop)) .fail).answers = [.fail] ∧
    (waiting (.statusBlock (.poll .sendLoop)) (.block badStatus)).answers = [.block badStatus] ∧
    badStatus.length = 7 ∧
    ¬ GoodStatus (waiting (.statusBlock (.poll .sendLoop)) (.block badStatus)) badStatus :=
  ⟨rfl, rfl, rfl, rfl, rfl, rfl, notGood_badStatus⟩

/-- The calls of an exchange one at a time: the frame of a run of the poll. -/
theorem witness_ExchangeHandsBackReplies_steps :
    (waiting (.block (.pollRun .sendLoop)) (.block (List.replicate 9 0))).host = [] ∧
    (List.replicate 9 (0 : Byte)).length = (frameSent s0 ⟨s0.xCmd, s0.xRel, s0.xPower, s0.xMs⟩).length ∧
    (waiting (.block (.pollRun .sendLoop)) .fail).answers = [.fail] ∧
    (waiting (.smart (.pollRun .sendLoop)) (.smart false)).phase = .smart (.pollRun .sendLoop) :=
  ⟨rfl, by decide, rfl, rfl⟩

theorem witness_ExchangeHandsBackReplies :
    1 ≤ ([0xA7] : List Byte).length ∧ (List.replicate 121 (0 : Byte)).length ≤ 121 ∧
    ([0xB7, 0x7B] : List Byte).length = 2 ∧ ([0, 0, 0] : List Byte).length = 3 ∧
    Ready (readyFor ⟨[0xA7], [0xB7, 0x7B], true, 5⟩) ∧
    Ready (readyFor ⟨List.replicate 121 0, [0, 0, 0], false, 0⟩) :=
  ⟨by decide, by decide, rfl, rfl, (readyFor_completes _).1, (readyFor_completes _).1⟩

theorem witness_RunAndInterruptWait :
    Ready (readyFor (runExch s0 15)) ∧ (replyTo (runExch s0 15)).fits (runExch s0 15) ∧
    Ready (readyFor (interruptExch s0 0)) ∧ (replyTo (interruptExch s0 0)).fits (interruptExch s0 0) :=
  ⟨(readyFor_completes _).1, (readyFor_completes _).2.2.1, (readyFor_completes _).1,
    (readyFor_completes _).2.2.1⟩

theorem witness_ControlAndWriteOperations :
    Ready (readyFor (resetExch s0)) ∧ Ready (readyFor (writeStatusExch s0 15)) ∧
    Ready (readyFor (writeHeaderExch s0 (List.replicate 8 0))) ∧
    Ready (readyFor (writeDataExch s0 (List.replicate 120 0))) ∧
    (List.replicate 8 (0 : Byte)).length = 8 ∧ (List.replicate 120 (0 : Byte)).length ≤ 120 ∧
    1 ≤ ([0] : List Byte).length :=
  ⟨(readyFor_completes _).1, (readyFor_completes _).1, (readyFor_completes _).1,
    (readyFor_completes _).1, rfl, by decide, by decide⟩

theorem witness_ReadOperations :
    Ready (readyFor (readHeaderExch s0)) ∧ Ready (readyFor (readDataExch s0 120)) ∧
    (replyTo (readDataExch s0 120)).fits (readDataExch s0 120) ∧ 0 ≤ 120 ∧ 120 ≤ 120 :=
  ⟨(readyFor_completes _).1, (readyFor_completes _).1, (readyFor_completes _).2.2.1, by decide,
    by decide⟩

theorem witness_WireCommandsExchangeTheirFrames :
    (readyFor (writeHeaderExch s0 (List.replicate 8 0))).phase = .idle ∧
    (readyFor (writeDataExch s0 (List.replicate 120 0))).phase = .idle ∧
    (readyFor (readDataExch s0 0)).phase = .idle ∧
    (readyFor ⟨[s0.cfg.cmdRun], s0.cfg.relRun.bytes, true, 63⟩).answers
      = exchangeAnswers ⟨[s0.cfg.cmdRun], s0.cfg.relRun.bytes, true, 63⟩
          (replyTo ⟨[s0.cfg.cmdRun], s0.cfg.relRun.bytes, true, 63⟩) ++ [] ∧
    ({ readyFor (resetExch s0) with lock := true } : State).phase = .idle ∧
    ∃ s', exec .wireReset { readyFor (resetExch s0) with lock := true } = .next s' ∧
      s'.lock = true :=
  ⟨rfl, rfl, rfl, (readyFor_completes _).2.1, rfl, ran (f := fun s' => s'.lock) (by decide)⟩

theorem witness_WireReadStatusExchange :
    (withAnswers [.block cc]).phase = .idle ∧ (withAnswers [.block cc]).answers = [.block cc] ++ [] ∧
    GoodStatus s0 cc ∧ badStatus.length = 7 ∧ ¬ GoodStatus s0 badStatus ∧
    (withAnswers [.fail]).answers = [.fail] ++ [] ∧
    ∃ s', exec .wireReadStatus { withAnswers [.fail] with lock := true } = .next s' ∧
      s'.lock = true :=
  ⟨rfl, rfl, good_cc, rfl, notGood_badStatus, rfl, ran (f := fun s' => s'.lock) (by decide)⟩

theorem witness_FramedOperationsFail :
    (Instr.devreset).wf = true ∧ framed s0 .devreset = some (resetExch s0) ∧ s0.phase = .idle ∧
    s0.lock = false ∧
    (withAnswers (exchangeAnswers (resetExch s0) { replyTo (resetExch s0) with bit := true })).answers
      = exchangeAnswers (resetExch s0) { replyTo (resetExch s0) with bit := true } ++ [] ∧
    ({ replyTo (resetExch s0) with bit := true } : Reply).fits (resetExch s0) ∧
    ({ replyTo (resetExch s0) with bit := true } : Reply).bit = s0.cfg.notUnderstoodBit ∧
    (withAnswers [.fail, .fail]).answers = [.fail, .fail] ++ [] :=
  ⟨rfl, rfl, rfl, rfl, rfl, rfl, rfl, rfl⟩

/-- The two failures of an exchange inside a transfer. -/
theorem witness_FramedOperationsFail_steps :
    (waiting (.blockRetry .tSHdr) .fail).host = [] ∧
    (waiting (.blockRetry .tSHdr) .fail).phase = .blockRetry .tSHdr ∧
    AtBit (waiting (.bit .tSHdr) (.bit true)) .tSHdr false ∧
    AtBit (waiting (.powerBit (.pollRun .host)) (.bit true)) (.pollRun .host) true ∧
    (waiting (.bit .tSHdr) (.bit true)).answers = [.bit s0.cfg.notUnderstoodBit] :=
  ⟨rfl, rfl, rfl, rfl, rfl⟩

theorem witness_FramedOperationsFrame :
    framed s0 .devreset = some (resetExch s0) ∧ Ready s0 ∧ (∃ s', exec .devreset s0 = .next s') ∧
    (waiting (.bit (.host .none)) (.bit true)).phase.exchange = some (.host .none) ∧
    ∃ s', step (waiting (.bit (.host .none)) (.bit true)) = .next s' :=
  ⟨rfl, ready_s0, ⟨_, rfl⟩, rfl, _, rfl⟩

/-- One witness for each of the four ends of a poll in the steady state. -/
theorem witness_PollEndsInSteadyState :
    Ready (withAnswers (statusAnswers cc)) ∧
    (withAnswers (statusAnswers cc)).answers = statusAnswers cc ++ [] ∧
    GoodStatus s0 cc ∧ ccSnap = snapshotOf s0 cc ∧ Steady refCfg ccSnap ∧ Served .receive ccSnap ∧
    GoodStatus s0 free7 ∧ Steady refCfg (snapshotOf s0 free7) ∧ (snapshotOf s0 free7).free.toNat < 8 ∧
    GoodStatus s0 clean ∧ cleanSnap = snapshotOf s0 clean ∧ Steady refCfg cleanSnap ∧
    cleanSnap.used = 0 ∧
    GoodStatus s0 used5 ∧ Steady refCfg (snapshotOf s0 used5) ∧ (snapshotOf s0 used5).used ≠ 0 ∧
    (snapshotOf s0 used5).used ≠ 8 :=
  ⟨⟨rfl, rfl⟩, rfl, good_cc, by decide, steady_cc, rfl, good_free7, by unfold Steady; decide,
    by decide, good_clean, by decide, steady_clean, rfl, good_used5, by unfold Steady; decide,
    by decide, by decide⟩

/-- A poll of the host at the `DataBlock` of its status read. -/
def atStatus (rx : List Byte) : State :=
  { s0 with lock := true, phase := .statusBlock (.poll .host), answers := [.block rx] }

/-- One witness for each arm. -/
theorem witness_PollArmsFollowTheTable :
    (atStatus por).host = [] ∧ (atStatus por).phase = .statusBlock (.poll .host) ∧
    (atStatus por).answers = [.block por] ∧ GoodStatus s0 por ∧
    (polled (atStatus por) por).snap.por = true ∧ (atStatus por).porArmed = false ∧
    ({ atStatus por with porArmed := true } : State).porArmed = true ∧
    GoodStatus s0 busyReply ∧ (polled (atStatus busyReply) busyReply).snap.por = false ∧
    (polled (atStatus busyReply) busyReply).snap.busy = true ∧
    GoodStatus s0 firstBirthday ∧ (snapshotOf s0 firstBirthday).busy = false ∧
    (snapshotOf s0 firstBirthday).sub = refCfg.scFirstBirthday ∧
    GoodStatus s0 masterErase ∧ (snapshotOf s0 masterErase).sub = refCfg.scMasterErase ∧
    GoodStatus s0 cnc ∧ (snapshotOf s0 cnc).cnc = true ∧
    GoodStatus s0 respIncomplete ∧ (snapshotOf s0 respIncomplete).sub = refCfg.scResponseIncomplete ∧
    GoodStatus s0 vmIncomplete0 ∧ (snapshotOf s0 vmIncomplete0).sub = refCfg.scVmIncomplete ∧
    (snapshotOf s0 vmIncomplete0).used = 0 :=
  ⟨rfl, rfl, rfl, good_por, by decide, rfl, rfl, good_busy, by decide, by decide, good_firstBirthday,
    by decide, by decide, good_masterErase, by decide, good_cnc, by decide, good_respIncomplete,
    by decide, good_vmIncomplete, by decide, by decide⟩

/-- One witness for each end in the steady state, in a poll of a transfer and of the host. -/
theorem witness_PollArmsFollowTheTable_steady :
    GoodStatus s0 free7 ∧ Steady refCfg (polled (atStatus free7) free7).snap ∧
    (atStatus free7).pollDir = .send ∧ (polled (atStatus free7) free7).snap.free.toNat < 8 ∧
    ({ atStatus clean with pollDir := .receive } : State).pollDir = .receive ∧
    Steady refCfg (polled (atStatus clean) clean).snap ∧
    (polled (atStatus clean) clean).snap.used = 0 ∧
    Steady refCfg (polled (atStatus used5) used5).snap ∧
    (polled (atStatus used5) used5).snap.used ≠ 0 ∧ (polled (atStatus used5) used5).snap.used ≠ 8 ∧
    Served (atStatus clean).pollDir (polled (atStatus clean) clean).snap ∧
    (waiting (.statusBlock (.poll .receiveLoop)) (.block used5)).phase
      = .statusBlock (.poll .receiveLoop) :=
  ⟨good_free7, by unfold Steady; decide, rfl, by decide, rfl, by unfold Steady; decide, by decide,
    by unfold Steady; decide, by decide, by decide,
    show 8 ≤ (polled (atStatus clean) clean).snap.free.toNat by decide, rfl⟩

/-- The block at the status bit of an exchange of caller `k`. -/
def atBit (k : ExchCaller) (power : Bool) : State :=
  { s0 with lock := true, phase := if power then .powerBit k else .bit k, answers := [.bit false] }

theorem witness_PollGoesOnAfterItsCalls :
    (atBit (.pollWrite .host) false).host = [] ∧
    (atBit (.pollWrite .host) false).answers = [.bit false] ∧ false ≠ refCfg.notUnderstoodBit ∧
    AtBit (atBit (.pollWrite .host) false) (.pollWrite .host) false ∧
    AtBit (atBit (.porWrite (.poll .host)) false) (.porWrite (.poll .host)) false ∧
    AtBit (atBit (.pollRun .host) true) (.pollRun .host) true ∧
    AtBit (atBit (.porRun (.poll .host)) true) (.porRun (.poll .host)) true ∧
    AtBit (atBit (.pollBump .host) true) (.pollBump .host) true :=
  ⟨rfl, rfl, by decide, rfl, rfl, rfl, rfl, rfl⟩

/-- The same bits not understood, in a poll of the host and of a transfer. -/
theorem witness_PollGoesOnAfterItsCalls_notUnderstood :
    (waiting (.bit (.pollWrite .host)) (.bit true)).answers = [.bit true] ∧
    true = refCfg.notUnderstoodBit ∧
    AtBit (waiting (.bit (.pollWrite .host)) (.bit true)) (.pollWrite .host) false ∧
    AtBit (waiting (.powerBit (.pollBump .sendLoop)) (.bit true)) (.pollBump .sendLoop) true :=
  ⟨rfl, rfl, rfl, rfl⟩

/-- The answers of one turn of the device that is always busy. -/
def busyTurn : List Answer :=
  [.selected true, .block busyReply, .block (List.replicate 12 0), .smart true, .bit false]

theorem witness_AlwaysBusyFailsAfter200 :
    Ready (withAnswers (List.replicate 200 busyTurn).flatten) ∧
    (withAnswers (List.replicate 200 busyTurn).flatten).answers
      = (List.replicate 200 busyTurn).flatten ++ [] ∧ 200 ≤ 200 ∧
    GoodStatus s0 busyReply ∧ (snapshotOf s0 busyReply).por = false ∧
    (snapshotOf s0 busyReply).busy = true ∧
    (snapshotOf s0 busyReply).sub ≠ refCfg.scNeedsMoreTime ∧
    (List.replicate 12 (0 : Byte)).length = 12 ∧ false ≠ refCfg.notUnderstoodBit :=
  ⟨⟨rfl, rfl⟩, (List.append_nil _).symm, le_refl _, good_busy, by decide, by decide, by decide, rfl,
    by decide⟩

/-- The answers of program P2. -/
def escalation : List Answer :=
  let ws (c : Nat) := exchangeAnswers (writeStatusExch s0 c) (replyTo (writeStatusExch s0 c))
  let rn (c : Nat) := exchangeAnswers (runExch s0 c) (replyTo (runExch s0 c))
  statusAnswers cnc ++ ws 2 ++ rn 2 ++ statusAnswers cnc ++ ws 4 ++ rn 4 ++ statusAnswers cnc ++ ws 8
    ++ rn 8 ++ statusAnswers clean ++ []

theorem witness_CommandNotCompleteEscalates :
    Ready (withAnswers escalation) ∧ (0 : Int) ≤ 0 ∧ GoodStatus s0 cnc ∧
    (snapshotOf s0 cnc).por = false ∧ (snapshotOf s0 cnc).busy = false ∧
    (snapshotOf s0 cnc).sub ≠ refCfg.scFirstBirthday ∧
    (snapshotOf s0 cnc).sub ≠ refCfg.scMasterErase ∧ (snapshotOf s0 cnc).cnc = true ∧
    GoodStatus s0 clean ∧ Steady refCfg (snapshotOf s0 clean) ∧ Served .send (snapshotOf s0 clean) ∧
    (∀ x : Exch, (replyTo x).fits x ∧ (replyTo x).retried = false ∧
      (replyTo x).bit ≠ refCfg.notUnderstoodBit) ∧
    refCfg.pwrWriteStatus = false ∧ (withAnswers escalation).answers = escalation :=
  ⟨⟨rfl, rfl⟩, by decide, good_cnc, by decide, by decide, by decide, by decide, by decide, good_clean,
    by unfold Steady; decide, by unfold Served; decide,
    fun _ => ⟨List.length_replicate, rfl, by simp [replyTo, refCfg]⟩, rfl, rfl⟩

theorem witness_SuccessfulPollIsServed :
    ∃ s', exec (.poll .receive 0) (withAnswers (sAns cc)) = .next s' ∧
      (s'.phase, s'.result) = (.idle, some (.ok (.snapshot ccSnap))) :=
  ran (f := fun s' => (s'.phase, s'.result)) (by decide +kernel)

/-- The same poll, its status reply taken in a later step. -/
theorem witness_SuccessfulPollIsServed_step :
    let s := { waiting (.statusBlock (.poll .host)) (.block cc) with pollDir := .receive }
    s.host = [] ∧ s.phase.poll? = some .host ∧ ∃ s', step s = .next s' ∧
      (s'.phase, s'.result) = (.idle, some (.ok (.snapshot ccSnap))) :=
  ⟨rfl, rfl, ran (f := fun s' => (s'.phase, s'.result)) (by decide +kernel)⟩

theorem witness_PollFrame_steps :
    (waiting (.select .host) (.selected true)).phase.statusRead = some .host ∧
    (∃ s', step (waiting (.select .host) (.selected true)) = .next s') ∧
    (waiting (.statusBlock .wire) .fail).phase.statusRead = some .wire ∧
    (∃ s', step (waiting (.statusBlock .wire) .fail) = .next s') ∧
    (waiting (.bit (.porWrite .alone)) (.bit false)).phase.exchange = some (.porWrite .alone) ∧
    (∃ s', step (waiting (.bit (.porWrite .alone)) (.bit false)) = .next s') ∧
    (waiting (.bit (.pollWrite .host)) (.bit false)).phase.poll? = some .host ∧
    ∃ s', step (waiting (.bit (.pollWrite .host)) (.bit false)) = .next s' :=
  ⟨rfl, ⟨_, rfl⟩, rfl, ⟨_, rfl⟩, rfl, ⟨_, rfl⟩, rfl, _, rfl⟩

theorem witness_PollFrame :
    Ready s0 ∧ (∃ s', exec .readstatus s0 = .next s') ∧ (∃ s', exec .porrecover s0 = .next s') ∧
    (∃ s', exec .wireReadStatus s0 = .next s') ∧ ∃ s', exec (.poll .send 0) s0 = .next s' :=
  ⟨ready_s0, ⟨_, rfl⟩, ⟨_, rfl⟩, ⟨_, rfl⟩, _, rfl⟩

theorem witness_PorrecoverRunsItsThreeCalls :
    s0.phase = .idle ∧
    (replyTo (writeStatusExch s0 (min 15 s0.porAdjust))).fits
      (writeStatusExch s0 (min 15 s0.porAdjust)) ∧
    (replyTo (runExch s0 (min 15 s0.porAdjust))).fits (runExch s0 (min 15 s0.porAdjust)) ∧
    false ≠ s0.cfg.notUnderstoodBit ∧
    (withAnswers (exchangeAnswers (writeStatusExch s0 0) (replyTo (writeStatusExch s0 0))
      ++ exchangeAnswers (runExch s0 0) (replyTo (runExch s0 0)) ++ [])).answers
      = exchangeAnswers (writeStatusExch s0 0) (replyTo (writeStatusExch s0 0))
        ++ exchangeAnswers (runExch s0 0) (replyTo (runExch s0 0)) ++ [] :=
  ⟨rfl, rfl, rfl, by decide, rfl⟩

theorem witness_TransferRefusals :
    Ready (withAnswers [.speed .regular]) ∧
    (withAnswers [.speed .regular]).answers = [.speed .regular] ++ [] ∧
    (withAnswers [.speed .overdrive]).answers = [.speed .overdrive] ++ [] ∧
    ([] : List Byte).length = 0 ∧ 16384 < (List.replicate 16385 (0 : Byte)).length :=
  ⟨⟨rfl, rfl⟩, rfl, rfl, rfl, by rw [List.length_replicate]; decide⟩

/-- The receive side at the bit of its read-data exchange, the block of section 2.4 just read. -/
def atData : State :=
  { loaded with
    lock := true, phase := .bit (.tRData [0x80, 5, 5, 0, 0x93, 0xAA, 0, 0]), answers := [.bit false]
    snap := ccSnap, xCmd := 0xA4 :: List.replicate 5 0xFF, xRel := [0xB4, 0x4B]
    xReply := front ++ [0xA4, 0, 0, 0, 0x90, 0, 0xB4, 0x4B] }

theorem witness_TransferPhasesFollowTheTable :
    AtBit { loaded with phase := .bit .tSHdr, curLen := 2 } .tSHdr false ∧
    AtBit (atBit .tSData false) .tSData false ∧ AtBit (atBit .tSWs false) .tSWs false ∧
    AtBit (atBit .tSRun true) .tSRun true ∧ AtBit (atBit .tRHdr false) .tRHdr false ∧
    AtBit (atBit .tRWs false) .tRWs false ∧ AtBit (atBit .tRRun true) .tRRun true ∧
    (atBit .tSRun true).more = false ∧ ({ atBit .tSRun true with more := true } : State).more = true ∧
    ({ atBit .tRHdr false with xCmd := List.replicate 9 0 } : State).xCmd.length = 9 ∧
    AtBit atData (.tRData [0x80, 5, 5, 0, 0x93, 0xAA, 0, 0]) false ∧
    atData.xCmd.length = 1 + (byteAt [0x80, 5, 5, 0, 0x93, 0xAA, 0, 0] 1).toNat ∧
    (atData.xReply.drop 10).take 5 = [0, 0, 0, 0x90, 0] ∧
    false ≠ refCfg.notUnderstoodBit :=
  ⟨rfl, rfl, rfl, rfl, rfl, rfl, rfl, rfl, rfl, rfl, rfl, rfl, rfl, by decide⟩

/-- Bits not understood in a transfer, in an exchange of its own and in one of its poll. -/
theorem witness_TransferPhasesFollowTheTable_notUnderstood :
    true = refCfg.notUnderstoodBit ∧ ExchCaller.owner .tRHdr = .transfer ∧
    AtBit (waiting (.bit .tRHdr) (.bit true)) .tRHdr false ∧
    ExchCaller.owner (.pollRun .sendLoop) = .transfer ∧
    AtBit (waiting (.powerBit (.pollRun .sendLoop)) (.bit true)) (.pollRun .sendLoop) true :=
  ⟨rfl, rfl, rfl, rfl, rfl⟩

/-- Both outcomes of `AcceptBlock` there. -/
theorem witness_TransferPhasesFollowTheTable_accept :
    (acceptBlock [0x80, 5, 5, 0, 0x93, 0xAA, 0, 0] [0, 0, 0, 0x90, 0] ccSnap atData).toOption.map
      (fun r => (r.1, r.2.acc)) = some (true, [0x90, 0]) ∧
    (acceptBlock [0x80, 5, 5, 0, 0x93, 0xAB, 0, 0] [0, 0, 0, 0x90, 0] ccSnap atData).toOption.map
      (fun r => r.1) = none := by decide +kernel

theorem witness_TransferPollsLeadOn :
    (atStatus clean).host = [] ∧ (atStatus clean).answers = [.block clean] ∧ GoodStatus s0 clean ∧
    Steady refCfg (snapshotOf s0 clean) ∧ Served .send (snapshotOf s0 clean) ∧
    Steady refCfg (snapshotOf s0 cc) ∧ Served .receive (snapshotOf s0 cc) ∧
    (nextHeader (polled { loaded with answers := [.block clean] } clean)).toOption.isSome = true :=
  ⟨rfl, rfl, good_clean, by unfold Steady; decide, by unfold Served; decide, by unfold Steady; decide,
    by unfold Served; decide, by decide +kernel⟩

theorem witness_TransferFailureHandling :
    ErrCode.comm = .comm ∧ ErrCode.notSelectable = .notSelectable ∧
    ({ loaded with attempt := 3, opPayload := [1] } : State).attempt = 3 ∧
    ({ loaded with attempt := 1, opPayload := [1] } : State).attempt ≠ 3 ∧
    1 ≤ ({ loaded with attempt := 1, opPayload := [1] } : State).opPayload.length :=
  ⟨rfl, rfl, rfl, by decide, by decide⟩

/-- The replies of program P1. -/
def p1Header : Reply := ⟨false, front ++ [0xA2, 0x80, 5, 5, 0, 0x93, 0xAA, 0, 0, 0xB2, 0x2B], true, false⟩
def p1Data : Reply := ⟨false, front ++ [0xA4, 0, 0, 0, 0x90, 0, 0xB4, 0x4B], true, false⟩

/-- The answers of program P1 as those of its exchanges. -/
def oneBlock : List Answer :=
  let w (x : Exch) := exchangeAnswers x (replyTo x)
  [.speed .overdrive] ++ statusAnswers clean
    ++ w (writeHeaderExch s0 (nextHeaderBytes (fragInit [0xCA, 0xFE] s0).1))
    ++ w (writeDataExch s0 [0xCA, 0xFE]) ++ w (writeStatusExch s0 (clamped 0))
    ++ w (runExch s0 (clamped 0)) ++ statusAnswers cc
    ++ exchangeAnswers (readHeaderExch s0) p1Header ++ exchangeAnswers (readDataExch s0 5) p1Data ++ []

theorem witness_TransferOneBlockEachWay :
    Ready (withAnswers oneBlock) ∧ 1 ≤ ([0xCA, 0xFE] : List Byte).length ∧
    GoodStatus s0 clean ∧ Steady refCfg (snapshotOf s0 clean) ∧ Served .send (snapshotOf s0 clean) ∧
    GoodStatus s0 cc ∧ Steady refCfg (snapshotOf s0 cc) ∧ Served .receive (snapshotOf s0 cc) ∧
    (snapshotOf s0 cc).sub = refCfg.scCommandComplete ∧
    [0x80, 5, 5, 0, 0x93, 0xAA, 0, 0] = (p1Header.rx.drop 10).take 8 ∧
    ([0x80, 5, 5, 0, 0x93, 0xAA, 0, 0] : List Byte)[1]? = some 5 ∧ (5 : Byte).toNat ≤ 120 ∧
    [0, 0, 0, 0x90, 0] = (p1Data.rx.drop 10).take (5 : Byte).toNat ∧
    crc16 refCfg 0 ([5] ++ [0, 0, 0, 0x90, 0]
      ++ (([0x80, 5, 5, 0, 0x93, 0xAA, 0, 0] : List Byte).drop 4).take 2) = goodResidual refCfg ∧
    (∀ x : Exch, (replyTo x).fits x ∧ (replyTo x).retried = false ∧
      (replyTo x).bit ≠ refCfg.notUnderstoodBit) ∧
    p1Header.fits (readHeaderExch s0) ∧ p1Data.fits (readDataExch s0 5) ∧
    p1Header.bit ≠ refCfg.notUnderstoodBit ∧ p1Data.bit ≠ refCfg.notUnderstoodBit ∧
    (withAnswers oneBlock).answers = oneBlock :=
  ⟨⟨rfl, rfl⟩, by decide, good_clean, by unfold Steady; decide, by unfold Served; decide, good_cc,
    by unfold Steady; decide, by unfold Served; decide, by decide, rfl, rfl, by decide, rfl,
    by decide +kernel, fun _ => ⟨List.length_replicate, rfl, by simp [replyTo, refCfg]⟩, rfl, rfl,
    by decide, by decide, rfl⟩

/-- R200, R203: a write-header command in power mode waits 0 ms, before the wait of the run. -/
theorem test_transfer_powerMode_waits :
    ∃ s', exec (.transfer [0xCA, 0xFE] 0) { withAnswers
        (oneBlock.take 4 ++ [.smart true] ++ oneBlock.drop 4) with
        cfg := { refCfg with pwrWriteHeader := true } } = .next s' ∧ sleeps s'.trace = [0, 63] :=
  ran (f := fun s' => sleeps s'.trace) (by decide +kernel)

theorem witness_TransferNeverEndsInOrder :
    Inv (withAnswers p1Answers) ∧ Ready (withAnswers p1Answers) ∧
    (∃ s', exec (.transfer [0xCA, 0xFE] 0) (withAnswers p1Answers) = .next s' ∧ s'.phase = .idle) ∧
    Inv atSpeed ∧ atSpeed.phase.owner = some .transfer ∧ atSpeed.host = [] ∧
    ∃ s', step atSpeed = .next s' ∧ s'.phase = .idle :=
  ⟨inv_s0 _ _, ⟨rfl, rfl⟩, ran (f := fun s' => s'.phase) (by decide +kernel), inv_atSpeed, rfl, rfl,
    _, rfl, rfl⟩

theorem witness_SpeedIsReadOnce :
    Ready (withAnswers p1Answers) ∧ (withAnswers p1Answers).answers ≠ [] ∧
    ∃ s', exec (.transfer [0xCA, 0xFE] 0) (withAnswers p1Answers) = .next s' ∧ s'.phase = .idle :=
  ⟨⟨rfl, rfl⟩, by decide, ran (f := fun s' => s'.phase) (by decide +kernel)⟩

theorem witness_SpeedIsReadOnce_steps :
    s0.answers = [] ∧ (∃ s', exec (.transfer [0xCA, 0xFE] 0) s0 = .next s') ∧
    atSpeed.host = [] ∧ atSpeed.phase = .tSpeed 0 ∧ atSpeed.answers ≠ [] ∧
    (∃ s', step atSpeed = .next s') ∧
    (∀ code, (waiting (.select (.poll .sendLoop)) (.selected true)).phase ≠ .tSpeed code) ∧
    ∃ s', step (waiting (.select (.poll .sendLoop)) (.selected true)) = .next s' :=
  ⟨rfl, ⟨_, rfl⟩, rfl, rfl, by decide, ⟨_, rfl⟩, by simp [waiting], _, rfl⟩

theorem witness_OperationsKeepConfiguration :
    (∃ s', exec (.run 3) s0 = .next s') ∧ (∀ ms, Instr.run 3 ≠ .setbase ms) ∧
    (∀ ms, Instr.run 3 ≠ .setincr ms) ∧ Ready s0 ∧ atSpeed.host = [] ∧
    ∃ s', step atSpeed = .next s' :=
  ⟨⟨_, rfl⟩, by simp, by simp, ready_s0, rfl, _, rfl⟩

theorem witness_ResetLeavesTheListedValues : State.reset = State.reset := rfl

theorem witness_BlockResetOnlyInIdle :
    ({ s0 with host := [.reset refAddr] } : State).host = .reset refAddr :: [] ∧ s0.phase = .idle ∧
    ({ atSpeed with host := [.reset refAddr] } : State).host = .reset refAddr :: [] ∧
    atSpeed.phase ≠ .idle :=
  ⟨rfl, rfl, rfl, by decide⟩

theorem witness_StepKeepsInv :
    Inv { s0 with host := [.op (word 0x18)] } ∧ Inv atSpeed ∧
    (∃ s', step { s0 with host := [.op (word 0x18)] } = .next s') ∧ ∃ s', step atSpeed = .next s' :=
  ⟨inv_s0 _ _, inv_atSpeed, ⟨_, rfl⟩, _, rfl⟩

theorem witness_TraceAndMinReadRtOnlyGrow :
    (∃ s', step s0 = .next s') ∧ ∀ addr rest, s0.host ≠ .reset addr :: rest :=
  ⟨⟨_, rfl⟩, by simp [s0, State.initial]⟩

theorem witness_OnlyTransferArms :
    s0.porArmed = false ∧ ∃ s', step { s0 with host := [.op (word 0x18)] } = .next s' ∧
      s'.porArmed = true :=
  ⟨rfl, _, rfl, rfl⟩

theorem witness_EveryExitReleasesLock :
    locks (.run 0) = true ∧ (Instr.run 0).wf = true ∧ Ready (withAnswers runAns) ∧
    (∃ s', exec (.run 0) (withAnswers runAns) = .next s' ∧ s'.phase = .idle) ∧
    (∃ s', exec (.run 0) s0 = .next s' ∧ s'.phase ≠ .idle) ∧
    atSpeed.phase ≠ .idle ∧ atSpeed.lock = true ∧ atSpeed.phase.owner ≠ some .caller ∧
    atSpeed.host = [] ∧ ∃ s', step atSpeed = .next s' ∧ s'.phase = .idle :=
  ⟨rfl, rfl, ⟨rfl, rfl⟩, ran (f := fun s' => s'.phase) (by decide), ⟨_, rfl, by decide⟩, by decide, rfl,
    by decide, rfl, _, rfl, rfl⟩

theorem witness_StepsStopOnlyByName :
    atSpeed.host = [] ∧ atSpeed.answers = [.speed .regular] ∧ fits atSpeed (.speed .regular) = true ∧
    atSpeed.phase ≠ .idle ∧ fits atSpeed .fail = false ∧ fits atSpeed (.bit true) = false ∧
    step { atSpeed with answers := [.bit true] } = .fault .wrongAnswer ∧
    step { atSpeed with answers := [.fail] } = .refused .callFailed ∧
    step { atSpeed with host := [.reset refAddr] } = .refused .resetInOperation :=
  ⟨rfl, rfl, rfl, by decide, rfl, rfl, rfl, rfl, rfl⟩

/-- Two answers in one step or in two: a status read of the host. -/
theorem witness_StepsStopOnlyByName_append :
    (waiting (.select .host) .fail).host = [] ∧
    ∃ s', step { waiting (.select .host) .fail with answers := [.selected true] } = .next s' ∧
      s'.phase = .statusBlock .host :=
  ⟨rfl, _, rfl, rfl⟩

theorem witness_BusCarriesFramesOnly : Inv atSpeed ∧ ∃ s', step atSpeed = .next s' :=
  ⟨inv_atSpeed, _, rfl⟩

end Sys2Proof.Tests
end

/-! SUPPORT. Proofs of the family 10_state. First whose operation is under way: every move keeps the
operation's owner and `LOCK`, or ends the operation (R31, R250). -/

namespace Sys2Proof.Machine

/-! ### An operation under way goes on or ends -/

/-- After a move of an operation of `o` that found `LOCK` at `lock`: it waits for an answer and `LOCK`
is as it was, or it has ended with a result and `LOCK` is released if it took it (R31, R250). -/
inductive Continues (t : State) (o : Owner) (lock : Bool) : Prop
  | waits (owner : t.phase.owner = some o) (held : t.lock = lock)
  | ends (idle : t.phase = .idle) (released : t.lock = lockAfter o lock) (given : t.result ≠ none)

section
variable (s : State)

theorem endOp_continues (o : Owner) (r : Result) : Continues (endOp o r s) o s.lock :=
  .ends rfl rfl (by simp)

theorem startExchange_continues (c rel : List Byte) (p : Bool) (ms : Nat) (k : ExchCaller) :
    Continues (startExchange c rel p ms k s) k.owner s.lock := .waits rfl rfl

theorem startPoll_continues (c : PollCaller) (d : Dir) (code : Int) :
    Continues (startPoll c d code s) c.owner s.lock := .waits rfl rfl

theorem startAttempt_continues : Continues (startAttempt s) .transfer s.lock := by
  rw [startAttempt_eq]
  split
  · exact endOp_continues ..
  · exact .waits rfl rfl

theorem transferFail_continues (e : Error) : Continues (transferFail e s) .transfer s.lock := by
  unfold transferFail
  split
  · exact endOp_continues ..
  · split
    · exact endOp_continues ..
    · exact startAttempt_continues ..

theorem raise_continues (o : Owner) (e : Error) : Continues (raise o e s) o s.lock := by
  cases o
  · exact endOp_continues ..
  · exact transferFail_continues ..
  · exact endOp_continues ..

theorem pollNext_continues (c : PollCaller) : Continues (pollNext c s) c.owner s.lock := by
  unfold pollNext
  split
  · exact raise_continues ..
  · exact .waits rfl rfl

theorem pollReturn_continues (c : PollCaller) : Continues (pollReturn c s) c.owner s.lock := by
  cases c
  · exact endOp_continues ..
  · simp only [pollReturn, orRaise]
    cases h : nextHeader s with
    | error e => exact raise_continues ..
    | ok p =>
      obtain ⟨header, t⟩ := p
      obtain ⟨-, -, -, rfl⟩ := nextHeader_ok s h
      exact .waits rfl rfl
  · exact startExchange_continues ..

theorem pollAct_continues (c : PollCaller) (a : Arm) : Continues (pollAct c a s) c.owner s.lock := by
  cases a
  case succeed => exact pollReturn_continues ..
  case fail => exact raise_continues ..
  all_goals exact .waits rfl rfl

/-- Arm 1 changes the counter only (R174). -/
theorem pollCount_eq : ∃ n, (n = 0 ∨ n = s.pollIter) ∧ pollCount s = { s with pollIter := n } := by
  unfold pollCount
  split
  · exact ⟨0, .inl rfl, rfl⟩
  · exact ⟨s.pollIter, .inr rfl, rfl⟩

theorem pollCount_lock : (pollCount s).lock = s.lock := by
  obtain ⟨n, -, he⟩ := pollCount_eq s
  rw [he]

theorem pollDecide_continues (c : PollCaller) : Continues (pollDecide c s) c.owner s.lock :=
  pollCount_lock s ▸ pollAct_continues (withArmCode _ (pollCount s)) ..

theorem statusReturn_continues (c : StatusCaller) : Continues (statusReturn c s) c.owner s.lock := by
  cases c
  · exact endOp_continues ..
  · exact endOp_continues ..
  · exact pollDecide_continues ..

theorem statusAnswered_continues (c : StatusCaller) (rx : List Byte) :
    Continues (statusAnswered c rx s) c.owner s.lock := by
  unfold statusAnswered
  dsimp only
  split
  · exact statusReturn_continues ..
  · exact raise_continues ..

theorem selectAnswered_continues (c : StatusCaller) (ok : Bool) :
    Continues (selectAnswered c ok s) c.owner s.lock := by
  cases ok <;> exact .waits rfl rfl

theorem selectAgainAnswered_continues (c : StatusCaller) (ok : Bool) :
    Continues (selectAgainAnswered c ok s) c.owner s.lock := by
  cases ok
  · exact raise_continues ..
  · exact .waits rfl rfl

theorem blockAnswered_continues (k : ExchCaller) (rx : List Byte) :
    Continues (blockAnswered k rx s) k.owner s.lock := by
  refine .waits ?_ rfl
  simp only [blockAnswered]
  split <;> rfl

theorem headerRead_continues (h : List Byte) : Continues (headerRead h s) .transfer s.lock := by
  unfold headerRead
  split
  · exact raise_continues ..
  · exact startExchange_continues ..

theorem dataRead_continues (h d : List Byte) : Continues (dataRead h d s) .transfer s.lock := by
  unfold dataRead
  simp only [orRaise]
  cases ha : acceptBlock h d s.snap s with
  | error e => exact raise_continues ..
  | ok p =>
    obtain ⟨done, t⟩ := p
    obtain ⟨-, -, -, -, rfl⟩ := acceptBlock_ok s ha
    dsimp only
    split
    · split
      · exact endOp_continues ..
      · exact raise_continues ..
    · exact .waits rfl rfl

theorem exchangeReturn_continues (k : ExchCaller) : Continues (exchangeReturn k s) k.owner s.lock := by
  cases k with
  | host | wire => exact endOp_continues ..
  | pollWrite | porWrite | tSData | tSWs | tRWs => exact startExchange_continues ..
  | pollRun | pollBump => exact pollNext_continues ..
  | porRun p =>
    cases p
    · exact endOp_continues ..
    · exact pollNext_continues ..
  | tSHdr =>
    simp only [exchangeReturn, orRaise]
    cases nextData s
    · exact raise_continues ..
    · exact startExchange_continues ..
  | tSRun =>
    simp only [exchangeReturn]
    split <;> exact .waits rfl rfl
  | tRHdr => exact headerRead_continues ..
  | tRData h => exact dataRead_continues ..
  | tRRun => exact startPoll_continues ..

theorem sampled_continues (k : ExchCaller) (b : Bool) : Continues (sampled k b s) k.owner s.lock := by
  unfold sampled
  split
  · exact raise_continues ..
  · exact exchangeReturn_continues ..

theorem speedAnswered_continues (code : Int) (sp : Speed) :
    Continues (speedAnswered code sp s) .transfer s.lock := by
  cases sp
  · exact endOp_continues ..
  · exact startAttempt_continues ..

end

/-- Every answer that is taken continues the operation that waits for it. -/
theorem Fed.continues {a : Answer} {s t : State} (h : Fed s a t) :
    ∃ o, s.phase.owner = some o ∧ Continues t o s.lock := by
  cases h with
  | speed hp => exact ⟨_, by rw [hp]; rfl, speedAnswered_continues ..⟩
  | select hp => exact ⟨_, by rw [hp]; rfl, selectAnswered_continues ..⟩
  | selectAgain hp => exact ⟨_, by rw [hp]; rfl, selectAgainAnswered_continues ..⟩
  | status hp => exact ⟨_, by rw [hp]; rfl, statusAnswered_continues ..⟩
  | statusFail hp | retryFail hp => exact ⟨_, by rw [hp]; rfl, raise_continues ..⟩
  | block hp =>
    exact ⟨_, by obtain hp | hp := hp <;> rw [hp] <;> rfl, blockAnswered_continues ..⟩
  | blockFail hp | smart hp => exact ⟨_, by rw [hp]; rfl, .waits rfl rfl⟩
  | powerBit hp | bit hp => exact ⟨_, by rw [hp]; rfl, sampled_continues ..⟩

/-- An operation that takes `LOCK` is the host's own or a transfer, and begins as one (R71, R89). -/
theorem startOf_continues {i : Instr} (h : locks i = true) (s : State) :
    ∃ o, o ≠ .caller ∧ Continues (startOf i s) o s.lock := by
  have ended : ∀ {α : Type} (r : Except Error α) (ok : α → Value × State),
      (∀ a, r = .ok a → (ok a).2.lock = s.lock) → Continues (endWith r s ok) .host s.lock := by
    intro α r ok hok
    cases r with
    | error e => exact endOp_continues ..
    | ok a => exact hok a rfl ▸ endOp_continues ..
  cases i with
  | fraginit payload =>
    refine ⟨.host, by decide, ?_⟩
    simp only [startOf]
    obtain ⟨-, hf⟩ | ⟨-, hf⟩ := fragInit_cases s payload <;>
    · rw [hf]
      exact .ends rfl rfl (by simp [raise])
  | nextheader =>
    refine ⟨.host, by decide, ended _ _ fun a ha => ?_⟩
    obtain ⟨-, -, -, ht⟩ := nextHeader_ok s ha
    simp [ht]
  | acceptblock =>
    refine ⟨.host, by decide, ended _ _ fun a ha => ?_⟩
    obtain ⟨-, -, -, -, ht⟩ := acceptBlock_ok s ha
    simp [ht]
  | nextdata | finish => exact ⟨.host, by decide, ended _ _ fun _ _ => rfl⟩
  | transfer => exact ⟨.transfer, by decide, .waits rfl rfl⟩
  | readstatus | writestatus | poll | exchange | run | interrupt | devreset | writeheader | readheader
  | writedata | readdata => exact ⟨.host, by decide, .waits rfl rfl⟩
  | _ => cases h

/-! ### What an operation that answers a next state did -/

/-- The state in which an operation begins: `LOCK` taken if it takes it (R71). -/
def begun (i : Instr) (s : State) : State := { s with lock := s.lock || locks i }

/-- The three ways in which an operation answers a next state (R71, R89, R90): it gave a result and at
most set a tunable, it was held at the host port, or it began and ran on the answers at hand. -/
inductive Executed (i : Instr) (s : State) : State → Prop
  | gave (r : Result) (base incr : BitVec 32)
    (hb : base = s.tBase ∨ (∃ ms, i = .setbase ms) ∧ Const.baseMin ≤ base.toNat)
    (hi : incr = s.tIncr ∨ (∃ ms, i = .setincr ms) ∧ Const.incrMin ≤ incr.toNat) :
    Executed i s { s with tBase := base, tIncr := incr, result := some r }
  | held (w : HostWord) (hb : busy s = true) : Executed i s { s with host := .op w :: s.host }
  | ran {t : State} (hk : locks i = true ∨ insideOf i = true) (hwf : i.wf = true)
    (hp : s.phase = .idle) (hl : locks i = true → s.lock = false)
    (hr : resume (startOf i (begun i s)) = .next t) : Executed i s t

/-- `ILLEGAL_OP` is a result given. -/
theorem Executed.illegal (i : Instr) (s : State) : Executed i s (illegalOp s) :=
  .gave _ s.tBase s.tIncr (.inl rfl) (.inl rfl)

/-- A setter's operand that is not below the least legal value is stored as it is (R121, R122). -/
theorem le_ofNat_of_msFits {ms least : Nat} (hwf : msFits ms = true) (h : ¬ ms < least) :
    least ≤ (BitVec.ofNat 32 ms).toNat := by
  have hms : ms < 2 ^ 32 := of_decide_eq_true hwf
  rw [BitVec.toNat_ofNat, Nat.mod_eq_of_lt hms]
  exact Nat.le_of_not_lt h

/-- `SETBASE` leaves `T_BASE` or sets a legal one (R121, R21). -/
theorem setbase_legal {ms : Nat} {s t : State} (h : exec (.setbase ms) s = .next t) :
    t.tBase = s.tBase ∨ Const.baseMin ≤ t.tBase.toNat := by
  cases h
  split
  · rename_i hwf
    split
    · exact .inl rfl
    · exact .inr (le_ofNat_of_msFits hwf ‹_›)
  · exact .inl rfl

/-- `SETINCR` leaves `T_INCR` or sets a legal one (R122, R21). -/
theorem setincr_legal {ms : Nat} {s t : State} (h : exec (.setincr ms) s = .next t) :
    t.tIncr = s.tIncr ∨ Const.incrMin ≤ t.tIncr.toNat := by
  cases h
  split
  · rename_i hwf
    split
    · exact .inl rfl
    · exact .inr (le_ofNat_of_msFits hwf ‹_›)
  · exact .inl rfl

/-- Every operation that answers a next state answers it in one of these ways. -/
theorem exec_executed {i : Instr} {s t : State} (h : exec i s = .next t) : Executed i s t := by
  by_cases hl : locks i = true
  · rw [exec_locked hl] at h
    obtain ⟨-, rfl⟩ | ⟨hb, w, -, rfl⟩ | ⟨hwf, hb, hr⟩ := issueLocked_next h
    · exact .illegal i s
    · exact .held w hb
    · obtain ⟨hlock, hp⟩ := busy_eq_false.1 hb
      refine .ran (.inl hl) hwf hp (fun _ => hlock) ?_
      rwa [begun, hl, Bool.or_true]
  · by_cases hi : insideOf i = true
    · rw [exec_inside hi] at h
      obtain ⟨-, rfl⟩ | ⟨-, w, hw, -⟩ | ⟨hwf, hp, hr⟩ := issueInside_next h
      · exact .illegal i s
      · simp [hostWord_of_inside hi] at hw
      · refine .ran (.inr hi) hwf hp (fun k => absurd k hl) ?_
        rwa [begun, Bool.eq_false_iff.2 hl, Bool.or_false]
    · obtain ⟨r, base, incr, he, hb, hin⟩ :=
        exec_atOnce (Bool.eq_false_iff.2 hl) (Bool.eq_false_iff.2 hi) s
      rw [he] at h
      cases h
      refine .gave r base incr ?_ ?_
      · by_cases hs : ∃ ms, i = .setbase ms
        · obtain ⟨ms, rfl⟩ := hs
          exact (setbase_legal he).imp_right fun hle => ⟨⟨ms, rfl⟩, hle⟩
        · exact .inl (hb fun ms k => hs ⟨ms, k⟩)
      · by_cases hs : ∃ ms, i = .setincr ms
        · obtain ⟨ms, rfl⟩ := hs
          exact (setincr_legal he).imp_right fun hle => ⟨⟨ms, rfl⟩, hle⟩
        · exact .inl (hin fun ms k => hs ⟨ms, k⟩)

/-! ### Configuration -/

/-- The registers that no operation changes but a setter, and the requests at the host port. -/
structure SameConfig (s t : State) : Prop where
  cfg : t.cfg = s.cfg
  addr : t.addr = s.addr
  corr : t.corr = s.corr
  tBase : t.tBase = s.tBase
  tIncr : t.tIncr = s.tIncr
  host : t.host = s.host

theorem Advances.sameConfig {s t : State} (h : Advances s t) : SameConfig s t := { h with }

theorem startOf_sameConfig (i : Instr) (s : State) : SameConfig s (startOf i s) := by
  by_cases hi : ∃ p c, i = .transfer p c
  · obtain ⟨p, c, rfl⟩ := hi
    exact ⟨rfl, rfl, rfl, rfl, rfl, rfl⟩
  · exact (startOf_advances (fun p c k => hi ⟨p, c, k⟩) s).sameConfig

/-- An operation that ran changed none of them. -/
theorem ran_sameConfig {i : Instr} {s t : State} (h : resume (startOf i (begun i s)) = .next t) :
    SameConfig s t := by
  have hs := startOf_sameConfig i (begun i s)
  have hr := (resume_advances h).sameConfig
  exact ⟨hr.cfg.trans hs.cfg, hr.addr.trans hs.addr, hr.corr.trans hs.corr, hr.tBase.trans hs.tBase,
    hr.tIncr.trans hs.tIncr, hr.host.trans hs.host⟩

/-- With nothing at the host port a step is the operation under way going on. -/
theorem step_resumes {s t : State} (hh : s.host = []) (h : step s = .next t) : resume s = .next t := by
  rw [← h, step, hh]

/-! ### What a step did -/

/-- The ways in which a step answers a next state (R69, R71, R90, R290). -/
inductive Stepped (s : State) : State → Prop
  | resumed {t : State} (h : resume s = .next t) : Stepped s t
  | wasReset {addr : Addr} {rest : List Request} (hh : s.host = .reset addr :: rest)
    (hp : s.phase = .idle) : Stepped s
      { State.initial s.cfg addr with host := rest, answers := s.answers, trace := s.trace }
  | refused {w : HostWord} {rest : List Request} (hh : s.host = .op w :: rest) :
    Stepped s (illegalOp { s with host := rest })
  | executed {w : HostWord} {rest : List Request} {i : Instr} {t : State}
    (hh : s.host = .op w :: rest) (hd : decodeHost w = .ok i)
    (he : Executed i { s with host := rest } t) : Stepped s t

/-- Every step that answers a next state answers it in one of these ways. -/
theorem step_stepped {s t : State} (h : step s = .next t) : Stepped s t := by
  unfold step at h
  split at h
  · exact .resumed h
  · unfold blockReset at h
    split at h <;> cases h
    exact .wasReset ‹_› ‹_›
  · rename_i w rest hh
    unfold serve at h
    split at h
    · cases h
      exact .refused hh
    · split at h
      · exact .resumed h
      · exact .executed hh ‹_› (exec_executed h)

/-! ### The exits of an operation -/

/-- An operation that holds `LOCK` still does while it waits, and has released it and given a result
when it has ended (R31, R71, R250). -/
def Released (t : State) : Prop :=
  (t.phase = .idle → t.lock = false ∧ t.result ≠ none) ∧
    (t.phase ≠ .idle → t.lock = true ∧ t.phase.owner ≠ some .caller)

/-- What continues an operation of the host's that holds `LOCK`. -/
theorem Continues.exits {o : Owner} {t : State} (ho : o ≠ .caller) (h : Continues t o true) :
    Released t := by
  cases h with
  | waits howner hlock =>
    refine ⟨fun hi => ?_, fun _ => ⟨hlock, by simpa [howner] using ho⟩⟩
    rw [hi] at howner
    cases howner
  | ends hi hlock hresult =>
    refine ⟨fun _ => ⟨?_, hresult⟩, fun hn => absurd hi hn⟩
    cases o
    · exact hlock
    · exact hlock
    · exact absurd rfl ho

/-- The exits of a run on answers. -/
theorem resume_exits {s t : State} (hs : Released s) (h : resume s = .next t) : Released t := by
  refine drive_keeps (P := Released) (fun a s t hs hi hf => ?_) (fun _ _ => id) _ s t hs h
  obtain ⟨o, ho, hc⟩ := (feed_fed hi hf).continues
  obtain ⟨hlock, howner⟩ := hs.2 hi
  rw [hlock] at hc
  refine hc.exits fun k => howner ?_
  rw [ho, k]

/-! ### The invariant taken apart

`Inv` speaks of the registers, whatever the block does (`RegsInv`), and of what the call being made is
due to find (`Phase.Due`). -/

/-- An error that `LAST_ERR` may hold (R230, R158). -/
abbrev Recordable (e : Error) : Prop :=
  e.code ≠ .illegalOp ∧ e.code ≠ .range ∧ e.code ≠ .order ∧ e.code ≠ .wrongSpeed

/-- The part of `Inv` that does not look at the phase. -/
structure RegsInv (s : State) : Prop where
  base : Const.baseMin ≤ s.tBase.toNat
  increment : Const.incrMin ≤ s.tIncr.toNat
  baseReset : Const.baseMin ≤ s.cfg.baseReset.toNat
  incrementReset : Const.incrMin ≤ s.cfg.incrReset.toNat
  table : s.corr = corrTable s.cfg
  iterations : s.pollIter ≤ Const.pollLimit
  attempts : s.attempt ≤ Const.maxAttempts
  adjustment : s.porAdjust ≤ Const.maxAttempts
  fragments : s.fragValid = true → FragInv s
  lastError : ∀ e, s.lastErr = some e → Recordable e

/-- Inside an attempt of a transfer (R232, R236). -/
def InAttempt (s : State) : Prop :=
  s.attempt = s.porAdjust + 1 ∧ s.fragValid = true ∧ s.pay = s.opPayload

/-- In the send loop of an attempt (R233). -/
def Sending (s : State) : Prop := InAttempt s ∧ s.inReceive = false

/-- In the receive loop of an attempt (R234, R237). -/
def Receiving (s : State) : Prop := InAttempt s ∧ s.inReceive = true ∧ s.more = false

/-- What an operation that can raise an error is due to find. -/
def Owner.Due : Owner → State → Prop
  | .transfer, s => InAttempt s
  | .host, _ | .caller, _ => True

/-- What a poll is due to find. -/
def PollCaller.Due : PollCaller → State → Prop
  | .host, _ => True
  | .sendLoop, s => Sending s ∧ s.more = true
  | .receiveLoop, s => Receiving s

/-- What a status read is due to find. -/
def StatusCaller.Due : StatusCaller → State → Prop
  | .host, _ | .wire, _ => True
  | .poll c, s => c.Due s

/-- What a POR recovery is due to find (R175). -/
def PorCaller.Due : PorCaller → State → Prop
  | .alone, s => s.porArmed = false
  | .poll c, s => s.porArmed = false ∧ c.Due s

/-- What an exchange is due to find. -/
def ExchCaller.Due : ExchCaller → State → Prop
  | .host _, _ | .wire, _ => True
  | .pollWrite c, s | .pollRun c, s | .pollBump c, s => c.Due s
  | .porWrite p, s | .porRun p, s => p.Due s
  | .tSHdr, s => Sending s ∧ 1 ≤ s.curLen
  | .tSData, s | .tSWs, s | .tSRun, s => Sending s
  | .tRHdr, s | .tRWs, s | .tRRun, s => Receiving s
  | .tRData h, s => Receiving s ∧ s.xCmd.length = 1 + (byteAt h 1).toNat

/-- The sizes of a frame's command and release code (R81, R200). -/
def FrameSized (cmd rel : List Byte) : Prop :=
  1 ≤ cmd.length ∧ cmd.length ≤ 1 + Const.maxBlock ∧ 2 ≤ rel.length ∧ rel.length ≤ 3

/-- What the call being made is due to find. -/
def Phase.Due : Phase → State → Prop
  | .idle, _ => True
  | .tSpeed _, s => s.porAdjust = 0
  | .select c, s | .selectAgain c, s | .statusBlock c, s => c.Due s
  | .block k, s | .blockRetry k, s => k.Due s ∧ FrameSized s.xCmd s.xRel
  | .smart k, s | .powerBit k, s | .bit k, s =>
    k.Due s ∧ FrameSized s.xCmd s.xRel ∧ s.xReply.length = 9 + s.xCmd.length + s.xRel.length

/-- The invariant but for `LOCK` and the owner, which `Continues` follows. -/
structure Sound (s : State) : Prop where
  regs : RegsInv s
  due : s.phase.Due s

/-- The clauses of `Inv` that read only the name and the owner of a phase. -/
def PhaseClauses (p : Phase) (s : State) : Prop :=
  (p.owner = some .transfer → p.name ≠ .T_SPEED → InAttempt s) ∧
  (p.sendSide = true → s.inReceive = false) ∧
  (p.name = .T_S_POLL → s.more = true) ∧
  (p.name = .T_S_HDR → 1 ≤ s.curLen) ∧
  (p.receiveSide = true → s.inReceive = true ∧ s.more = false)

section
variable (s : State)

@[simp] theorem phaseClauses_selectAgain (c : StatusCaller) :
    PhaseClauses (.selectAgain c) s ↔ PhaseClauses (.select c) s := Iff.rfl

@[simp] theorem phaseClauses_statusBlock (c : StatusCaller) :
    PhaseClauses (.statusBlock c) s ↔ PhaseClauses (.select c) s := Iff.rfl

@[simp] theorem phaseClauses_blockRetry (k : ExchCaller) :
    PhaseClauses (.blockRetry k) s ↔ PhaseClauses (.block k) s := Iff.rfl

@[simp] theorem phaseClauses_smart (k : ExchCaller) :
    PhaseClauses (.smart k) s ↔ PhaseClauses (.block k) s := Iff.rfl

@[simp] theorem phaseClauses_powerBit (k : ExchCaller) :
    PhaseClauses (.powerBit k) s ↔ PhaseClauses (.block k) s := Iff.rfl

@[simp] theorem phaseClauses_bit (k : ExchCaller) :
    PhaseClauses (.bit k) s ↔ PhaseClauses (.block k) s := Iff.rfl

/-- An exchange of a poll has the clauses of the poll. -/
theorem phaseClauses_poll {c : PollCaller} {k : ExchCaller}
    (hk : k ∈ [.pollWrite c, .pollRun c, .pollBump c, .porWrite (.poll c), .porRun (.poll c)]) :
    PhaseClauses (.block k) s ↔ PhaseClauses (.select (.poll c)) s := by
  simp only [List.mem_cons, List.not_mem_nil, or_false] at hk
  obtain rfl | rfl | rfl | rfl | rfl := hk <;> exact Iff.rfl

/-- The clauses say of a poll what it is due to find. -/
theorem PollCaller.due_iff (c : PollCaller) : PhaseClauses (.select (.poll c)) s ↔ c.Due s := by
  cases c <;>
    simp [PhaseClauses, Phase.owner, StatusCaller.owner, PollCaller.owner, Phase.sendSide,
      Phase.receiveSide, Phase.name, PollCaller.phaseName, PollCaller.Due, Sending, Receiving,
      and_assoc]

/-- They say it of a status read. -/
theorem StatusCaller.due_iff (c : StatusCaller) : PhaseClauses (.select c) s ↔ c.Due s := by
  cases c with
  | poll c => exact c.due_iff s
  | host | wire =>
    simp [PhaseClauses, Phase.owner, StatusCaller.owner, Phase.sendSide, Phase.receiveSide, Phase.name,
      StatusCaller.Due]

/-- With the clauses on POR recoveries and on the read of data they say it of an exchange. -/
theorem ExchCaller.due_iff (k : ExchCaller) :
    PhaseClauses (.block k) s ∧ (k.recovers = true → s.porArmed = false) ∧
      (∀ h, k = .tRData h → s.xCmd.length = 1 + (byteAt h 1).toNat) ↔ k.Due s := by
  cases k with
  | pollWrite c | pollRun c | pollBump c =>
    simp [phaseClauses_poll s (c := c), c.due_iff, recovers, ExchCaller.Due]
  | porWrite p | porRun p =>
    cases p with
    | alone =>
      simp [PhaseClauses, Phase.owner, ExchCaller.owner, PorCaller.owner, Phase.sendSide,
        Phase.receiveSide, Phase.name, recovers, ExchCaller.Due, PorCaller.Due]
    | poll c =>
      simp [phaseClauses_poll s (c := c), c.due_iff, recovers, ExchCaller.Due, PorCaller.Due, and_comm]
  | host | wire | tSHdr | tSData | tSWs | tSRun | tRHdr | tRWs | tRRun | tRData =>
    simp [PhaseClauses, Phase.owner, ExchCaller.owner, Phase.sendSide, Phase.receiveSide, Phase.name,
      recovers, ExchCaller.Due, Sending, Receiving, and_assoc]

/-- What the call being made is due to find, in the clauses of `Inv`. -/
theorem Phase.due_iff (p : Phase) :
    (∀ code, p = .tSpeed code → s.porAdjust = 0) ∧ PhaseClauses p s ∧
      (∀ k, p.exchange = some k → k.recovers = true → s.porArmed = false) ∧
      (∀ k, p.exchange = some k → FrameSized s.xCmd s.xRel) ∧
      (p.replied = true → s.xReply.length = 9 + s.xCmd.length + s.xRel.length) ∧
      (∀ h, p.exchange = some (.tRData h) → s.xCmd.length = 1 + (byteAt h 1).toNat) ↔ p.Due s := by
  cases p with
  | idle | tSpeed =>
    simp [PhaseClauses, Phase.owner, Phase.sendSide, Phase.receiveSide, Phase.name, exchange, replied,
      Phase.Due]
  | select c | selectAgain c | statusBlock c =>
    simp [Phase.Due, ← c.due_iff, exchange, replied]
  | block k | blockRetry k | smart k | powerBit k | bit k =>
    simp [Phase.Due, ← k.due_iff, exchange, replied, and_assoc, and_left_comm, and_comm]

end

/-- Only at the `SpeedGet` of a transfer has the phase that name. -/
theorem Phase.name_eq_tSpeed {p : Phase} (h : p.name = .T_SPEED) : ∃ code, p = .tSpeed code := by
  have poll : ∀ c : PollCaller, c.phaseName ≠ .T_SPEED := fun c => by
    cases c <;> simp [PollCaller.phaseName]
  cases p with
  | tSpeed code => exact ⟨code, rfl⟩
  | idle => cases h
  | select c | selectAgain c | statusBlock c =>
    cases c with
    | poll c => exact absurd h (poll c)
    | host | wire => cases h
  | block k | blockRetry k | smart k | powerBit k | bit k =>
    cases k with
    | pollWrite c | pollRun c | pollBump c => exact absurd h (poll c)
    | porWrite p | porRun p =>
      cases p with
      | poll c => exact absurd h (poll c)
      | alone => cases h
    | _ => cases h

/-- The invariant is `Sound` with `LOCK` and the owner (R31, R89). -/
theorem inv_iff {s : State} : Inv s ↔
    Sound s ∧ (s.lock = true ↔ s.phase ≠ .idle) ∧ s.phase.owner ≠ some .caller := by
  constructor
  · intro h
    refine ⟨⟨{ h with }, ?_⟩, h.lock, h.owner⟩
    refine (s.phase.due_iff s).1 ⟨h.arming, ⟨fun ho hn => h.attempt ho ?_, h.sending, h.toSend,
      h.described, h.receiving⟩, h.recovering, h.frame, h.reply, h.reading⟩
    rintro code hc
    exact hn (by rw [hc]; rfl)
  · rintro ⟨⟨hr, hd⟩, hl, ho⟩
    obtain ⟨harm, ⟨hatt, hsend, htosend, hdesc, hrecv⟩, hrec, hframe, hreply, hread⟩ :=
      (s.phase.due_iff s).2 hd
    refine { hr with
      arming := harm, sending := hsend, toSend := htosend, described := hdesc, receiving := hrecv
      recovering := hrec, lock := hl, owner := ho, frame := hframe, reply := hreply, reading := hread
      attempt := fun ht hn => hatt ht fun hname => ?_ }
    obtain ⟨code, hc⟩ := Phase.name_eq_tSpeed hname
    exact hn code hc

/-! ### What the parts of the invariant read -/

/-- The registers of the fragmenter that `FragInv` reads. -/
def fragRegs (s : State) := (s.pay, s.plen, s.cursor, s.curOff, s.curLen, s.more, s.seq)

/-- `FragInv` reads no other registers. -/
theorem FragInv.congr {s t : State} (h : FragInv s) (e : fragRegs t = fragRegs s := by rfl) :
    FragInv t := by
  simp only [fragRegs, Prod.mk.injEq] at e
  obtain ⟨hpay, hplen, hcursor, hoff, hlen, hmore, hseq⟩ := e
  constructor <;> simp only [hpay, hplen, hcursor, hoff, hlen, hmore, hseq]
  exacts [h.length, h.atLeast, h.atMost, h.cursor, h.current, h.block, h.more, h.fullBlocks,
    h.sequence]

/-- The registers that `RegsInv` reads. -/
def regs (s : State) :=
  (s.cfg, s.tBase, s.tIncr, s.corr, s.pollIter, s.attempt, s.porAdjust, s.lastErr, s.fragValid,
    fragRegs s)

/-- `RegsInv` reads no other registers. -/
theorem RegsInv.congr {s t : State} (h : RegsInv s) (e : regs t = regs s := by rfl) : RegsInv t := by
  simp only [regs, Prod.mk.injEq] at e
  obtain ⟨hcfg, hbase, hincr, hcorr, hiter, hatt, hadj, herr, hvalid, hfrag⟩ := e
  constructor <;> simp only [hcfg, hbase, hincr, hcorr, hiter, hatt, hadj, herr, hvalid]
  exacts [h.base, h.increment, h.baseReset, h.incrementReset, h.table, h.iterations, h.attempts,
    h.adjustment, fun hv => (h.fragments hv).congr hfrag, h.lastError]

/-- The registers that a call under way is due to find in some state, but for its frame. -/
def loopRegs (s : State) :=
  (s.attempt, s.porAdjust, s.fragValid, s.pay, s.opPayload, s.inReceive, s.more, s.curLen, s.porArmed)

section
variable {s t : State}

theorem InAttempt.congr (h : InAttempt s) (e : loopRegs t = loopRegs s := by rfl) : InAttempt t := by
  simp only [loopRegs, Prod.mk.injEq] at e
  simpa only [InAttempt, e] using h

theorem Sending.congr (h : Sending s) (e : loopRegs t = loopRegs s := by rfl) : Sending t := by
  refine ⟨h.1.congr e, ?_⟩
  simp only [loopRegs, Prod.mk.injEq] at e
  simpa only [e] using h.2

theorem Receiving.congr (h : Receiving s) (e : loopRegs t = loopRegs s := by rfl) : Receiving t := by
  refine ⟨h.1.congr e, ?_⟩
  simp only [loopRegs, Prod.mk.injEq] at e
  simpa only [e] using h.2

theorem Sending.valid (h : Sending s) : s.fragValid = true := by
  obtain ⟨⟨-, hvalid, -⟩, -⟩ := h
  exact hvalid

theorem Receiving.valid (h : Receiving s) : s.fragValid = true := by
  obtain ⟨⟨-, hvalid, -⟩, -⟩ := h
  exact hvalid

theorem PollCaller.Due.congr {c : PollCaller} (h : c.Due s)
    (e : loopRegs t = loopRegs s := by rfl) : c.Due t := by
  cases c with
  | host => trivial
  | sendLoop =>
    refine ⟨h.1.congr e, ?_⟩
    simp only [loopRegs, Prod.mk.injEq] at e
    simpa only [e] using h.2
  | receiveLoop => exact Receiving.congr h e

theorem StatusCaller.Due.congr {c : StatusCaller} (h : c.Due s)
    (e : loopRegs t = loopRegs s := by rfl) : c.Due t := by
  cases c with
  | poll c => exact PollCaller.Due.congr h e
  | host | wire => trivial

/-- An exchange looks at its command too. -/
theorem ExchCaller.Due.congr {k : ExchCaller} (h : k.Due s) (e : loopRegs t = loopRegs s := by rfl)
    (hx : t.xCmd = s.xCmd := by rfl) : k.Due t := by
  rw [← ExchCaller.due_iff] at h ⊢
  simp only [loopRegs, Prod.mk.injEq] at e
  simpa only [PhaseClauses, InAttempt, e, hx] using h

end

/-! ### Registers written -/

section
variable {s : State}

theorem RegsInv.setPollIter (h : RegsInv s) {n : Nat} (hn : n ≤ Const.pollLimit) :
    RegsInv { s with pollIter := n } :=
  { h with iterations := hn, fragments := fun hv => (h.fragments hv).congr }

theorem RegsInv.setLastErr (h : RegsInv s) {e : Error} (he : Recordable e) :
    RegsInv { s with lastErr := some e } :=
  { h with
    lastError := fun _ he' => Option.some.inj he' ▸ he
    fragments := fun hv => (h.fragments hv).congr }

theorem RegsInv.setAttempt (h : RegsInv s) {n : Nat} (hn : n ≤ Const.maxAttempts) :
    RegsInv { s with attempt := n } :=
  { h with attempts := hn, fragments := fun hv => (h.fragments hv).congr }

theorem RegsInv.setPorAdjust (h : RegsInv s) {n : Nat} (hn : n ≤ Const.maxAttempts) :
    RegsInv { s with porAdjust := n } :=
  { h with adjustment := hn, fragments := fun hv => (h.fragments hv).congr }

theorem RegsInv.forgetPayload (h : RegsInv s) : RegsInv { s with fragValid := false } :=
  { h with fragments := fun hv => by cases hv }

/-- The registers after a successful `FragInit` (R150). -/
theorem RegsInv.loadPayload (h : RegsInv s) {payload : List Byte} (h1 : 1 ≤ payload.length)
    (hm : payload.length ≤ Const.maxPayload) :
    RegsInv { s with
      pay := payload, plen := payload.length, cursor := 0, seq := 0, chk := 0, more := true
      curOff := 0, curLen := 0, acc := [], fragValid := true } :=
  { h with
    fragments := fun _ =>
      { length := rfl, atLeast := h1, atMost := hm, cursor := Nat.zero_le _, current := rfl
        block := Nat.zero_le _, more := ⟨fun _ => h1, fun _ => rfl⟩, fullBlocks := fun _ => rfl
        sequence := by simp [Const.maxBlock] } }

/-- The registers after `NextHeader` (R151, R157). -/
theorem FragInv.nextHeader (h : FragInv s) (hm : s.more = true) :
    FragInv { s with
      chk := chkUpdate s.cfg s.chk (nextBytes s), seq := s.seq + 1, curOff := s.cursor
      curLen := nextLen s, cursor := s.cursor + nextLen s
      more := !isFinal (nextRem s) (nextLen s) } := by
  have hlt := h.more.1 hm
  have hfull : s.cursor % 120 = 0 := h.fullBlocks hm
  have hseq : s.seq.toNat = (s.cursor + 119) / 120 % 128 := h.sequence
  have hlen : nextLen s = min (s.plen - s.cursor) 120 := rfl
  have hmore : (!isFinal (nextRem s) (nextLen s)) = true ↔ s.plen - s.cursor ≠ nextLen s := by
    simp [isFinal, nextRem]
  exact
    { length := h.length
      atLeast := h.atLeast
      atMost := h.atMost
      cursor := by dsimp only; omega
      current := rfl
      block := by dsimp only [Const.maxBlock]; omega
      more := hmore.trans (by dsimp only; omega)
      fullBlocks := fun hm' => by
        have := hmore.1 hm'
        dsimp only [Const.maxBlock]
        omega
      sequence := by
        have hs : (s.seq + 1).toNat = (s.seq.toNat + 1) % 128 := by simp [BitVec.toNat_add]
        dsimp only [Const.maxBlock]
        omega }

/-- A block that is left to send is not empty (R151). -/
theorem FragInv.one_le_nextLen (h : FragInv s) (hm : s.more = true) : 1 ≤ nextLen s := by
  have := h.more.1 hm
  simp only [nextLen, nextRem, Const.maxBlock]
  omega

theorem nextHeaderBytes_length (s : State) : (nextHeaderBytes s).length = 8 := rfl

end

/-! ### Every move of the block is sound -/

section
variable {s : State}

theorem endOp_sound (hr : RegsInv s) (o : Owner) (r : Result) : Sound (endOp o r s) :=
  ⟨hr.congr, trivial⟩

/-- An exchange that begins where its caller is due to. -/
theorem startExchange_sound (hr : RegsInv s) {c rel : List Byte} {p : Bool} {ms : Nat} {k : ExchCaller}
    (hk : k.Due (startExchange c rel p ms k s)) (hf : FrameSized c rel) :
    Sound (startExchange c rel p ms k s) := ⟨hr.congr, hk, hf⟩

/-- A release code has 2 or 3 bytes (R81). -/
theorem relCode_length (r : RelCode) : 2 ≤ r.bytes.length ∧ r.bytes.length ≤ 3 := by
  cases r <;> simp [RelCode.bytes]

/-- A frame of a command byte with up to 120 bytes, and a release code of 2 or 3 bytes. -/
theorem frameSized_code {b : Byte} {body : List Byte} (r : RelCode) (h : body.length ≤ 120) :
    FrameSized (b :: body) r.bytes := by
  obtain ⟨h2, h3⟩ := relCode_length r
  exact ⟨by simp, by simp [Const.maxBlock]; omega, h2, h3⟩

/-- The same with a release code of 2 bytes. -/
theorem frameSized_pair {b : Byte} {body : List Byte} (r : RelPair) (h : body.length ≤ 120) :
    FrameSized (b :: body) r.bytes :=
  ⟨by simp, by simp [Const.maxBlock]; omega, by simp [RelPair.bytes], by simp [RelPair.bytes]⟩

theorem startWriteStatus_sound (hr : RegsInv s) {c : Code} {k : ExchCaller}
    (hk : k.Due (startWriteStatus c k s)) : Sound (startWriteStatus c k s) :=
  startExchange_sound hr hk (frameSized_pair _ (by simp))

theorem startRun_sound (hr : RegsInv s) {c : Code} {k : ExchCaller} (hk : k.Due (startRun c k s)) :
    Sound (startRun c k s) :=
  startExchange_sound hr hk (frameSized_pair _ (by simp))

theorem startWriteHeader_sound (hr : RegsInv s) {h : List Byte} {k : ExchCaller}
    (hk : k.Due (startWriteHeader h k s)) (hh : h.length = 8) : Sound (startWriteHeader h k s) :=
  startExchange_sound hr hk (frameSized_code _ (by omega))

theorem startReadHeader_sound (hr : RegsInv s) {k : ExchCaller} (hk : k.Due (startReadHeader k s)) :
    Sound (startReadHeader k s) :=
  startExchange_sound hr hk (frameSized_code _ (by simp [allOnes, Const.headerSize]))

theorem startWriteData_sound (hr : RegsInv s) {d : List Byte} {k : ExchCaller}
    (hk : k.Due (startWriteData d k s)) (hd : d.length ≤ 120) : Sound (startWriteData d k s) :=
  startExchange_sound hr hk (frameSized_code _ hd)

theorem startReadData_sound (hr : RegsInv s) {n : Nat} {k : ExchCaller}
    (hk : k.Due (startReadData n k s)) (hn : n ≤ 120) : Sound (startReadData n k s) :=
  startExchange_sound hr hk (frameSized_code _ (by simpa [allOnes] using hn))

theorem pollRead_sound (hr : RegsInv s) {c : PollCaller} (hc : c.Due s)
    (hi : s.pollIter < Const.pollLimit) : Sound (pollRead c s) :=
  ⟨(hr.setPollIter hi).congr, PollCaller.Due.congr hc⟩

theorem startPoll_sound (hr : RegsInv s) {c : PollCaller} (hc : c.Due s) (d : Dir) (code : Int) :
    Sound (startPoll c d code s) :=
  ⟨(hr.setPollIter (n := 1) (by decide)).congr, PollCaller.Due.congr hc⟩

/-! ### Errors raised -/

theorem transferStop_sound (hr : RegsInv s) {e : Error} (he : Recordable e) :
    Sound (transferStop e s) := endOp_sound (hr.setLastErr he) ..

/-- An attempt that begins with one adjustment for each attempt before (R232, R236). -/
theorem startAttempt_sound (hr : RegsInv s) (h : s.attempt = s.porAdjust)
    (hlt : s.attempt < Const.maxAttempts) : Sound (startAttempt s) := by
  have hra : RegsInv { s with attempt := s.attempt + 1, inReceive := false } :=
    (hr.setAttempt hlt).congr
  rw [startAttempt_eq]
  split
  · exact transferStop_sound hra.forgetPayload (by decide)
  · have hc : s.attempt + 1 = s.porAdjust + 1 := by rw [h]
    refine startPoll_sound (hra.loadPayload (payload := s.opPayload) ?_ ?_) ?_ ..
    · omega
    · omega
    · exact ⟨⟨⟨hc, rfl, rfl⟩, rfl⟩, rfl⟩

/-- Step 6 inside an attempt: three of them at most (R236). -/
theorem transferFail_sound (hr : RegsInv s) (ha : InAttempt s) {e : Error} (he : Recordable e) :
    Sound (transferFail e s) := by
  obtain ⟨hcount, -, -⟩ := ha
  have hmost := hr.attempts
  have hbump : RegsInv (transferBump { s with lastErr := some e }) :=
    ((hr.setLastErr he).setPorAdjust (n := s.porAdjust + 1) (by omega)).congr
  unfold transferFail
  split
  · exact transferStop_sound hr he
  · split
    · exact endOp_sound hbump ..
    · rename_i hne
      exact startAttempt_sound hbump hcount (lt_of_le_of_ne hmost hne)

theorem raise_sound (hr : RegsInv s) {o : Owner} (ho : o.Due s) {e : Error} (he : Recordable e) :
    Sound (raise o e s) := by
  cases o
  · exact endOp_sound hr ..
  · exact transferFail_sound hr ho he
  · exact endOp_sound hr ..

theorem PollCaller.Due.owner {c : PollCaller} (h : c.Due s) : c.owner.Due s := by
  cases c with
  | host => trivial
  | sendLoop => exact h.1.1
  | receiveLoop => exact h.1

theorem StatusCaller.Due.owner {c : StatusCaller} (h : c.Due s) : c.owner.Due s := by
  cases c with
  | poll c => exact PollCaller.Due.owner h
  | host | wire => trivial

theorem ExchCaller.Due.owner {k : ExchCaller} (h : k.Due s) : k.owner.Due s := by
  obtain ⟨⟨ha, -⟩, -⟩ := (k.due_iff s).2 h
  cases hk : k.owner with
  | transfer =>
    refine ha (congrArg some hk) fun hn => ?_
    obtain ⟨code, hc⟩ := Phase.name_eq_tSpeed hn
    cases hc
  | host | caller => trivial

/-! ### The poll loop -/

theorem pollNext_sound (hr : RegsInv s) {c : PollCaller} (hc : c.Due s) : Sound (pollNext c s) := by
  unfold pollNext
  split
  · exact raise_sound hr hc.owner (by decide)
  · rename_i hi
    exact pollRead_sound hr hc (Nat.lt_of_not_le hi)

/-- A poll of the send loop has a block to send, so `NextHeader` gives its header (R233). -/
theorem pollReturn_sound (hr : RegsInv s) {c : PollCaller} (hc : c.Due s) :
    Sound (pollReturn c s) := by
  cases c with
  | host => exact endOp_sound hr ..
  | receiveLoop => exact startReadHeader_sound hr (Receiving.congr hc)
  | sendLoop =>
    obtain ⟨⟨⟨hcount, hvalid, hpay⟩, hside⟩, hmore⟩ := hc
    have hfrag := hr.fragments hvalid
    simp only [pollReturn, orRaise]
    cases hn : nextHeader s with
    | error e => simp [nextHeader, hvalid, hmore] at hn
    | ok p =>
      obtain ⟨header, t⟩ := p
      obtain ⟨-, -, rfl, rfl⟩ := nextHeader_ok s hn
      refine startWriteHeader_sound ?_ ?_ (nextHeaderBytes_length s)
      · exact { hr with fragments := fun _ => hfrag.nextHeader hmore }
      · exact ⟨⟨⟨hcount, hvalid, hpay⟩, hside⟩, hfrag.one_le_nextLen hmore⟩

/-- The errors of the poll's arms (R175, R181). -/
theorem pollArm_fail {cfg : Cfg} {dir : Dir} {armed : Bool} {snap : Snapshot} {e : ErrCode}
    (h : pollArm cfg dir armed snap = .fail e) : Recordable e.plain := by
  unfold pollArm at h
  repeat' split at h
  all_goals cases h
  all_goals decide

/-- What the block is due to find stays so when the recovery is consumed (R175). -/
theorem PollCaller.Due.recovering {c : PollCaller} (h : c.Due s) {t : State}
    (e : loopRegs t = loopRegs { s with porArmed := false }) : c.Due t := by
  refine PollCaller.Due.congr (s := { s with porArmed := false }) ?_ e
  cases c with
  | host => trivial
  | sendLoop | receiveLoop => exact h

theorem pollAct_sound (hr : RegsInv s) {c : PollCaller} (hc : c.Due s) {a : Arm}
    (ha : ∀ e, a = .fail e → Recordable e.plain) : Sound (pollAct c a s) := by
  cases a with
  | porRecover =>
    have hr' : RegsInv (emit [.busReset] { s with porArmed := false }) := hr.congr
    exact startWriteStatus_sound hr' ⟨rfl, hc.recovering rfl⟩
  | busy | responseIncomplete | vmIncomplete => exact startRun_sound hr (PollCaller.Due.congr hc)
  | firstBirthday | masterErase | commandNotComplete =>
    exact startWriteStatus_sound hr (PollCaller.Due.congr hc)
  | succeed => exact pollReturn_sound hr hc
  | fail e => exact raise_sound hr hc.owner (ha e rfl)

theorem pollDecide_sound (hr : RegsInv s) {c : PollCaller} (hc : c.Due s) :
    Sound (pollDecide c s) := by
  obtain ⟨n, hn, he⟩ := pollCount_eq s
  have hn' : n ≤ Const.pollLimit := by
    obtain rfl | rfl := hn
    · exact Nat.zero_le _
    · exact hr.iterations
  unfold pollDecide
  rw [he]
  exact pollAct_sound (hr.setPollIter hn').congr (PollCaller.Due.congr hc) fun _ => pollArm_fail

/-! ### Status reads -/

theorem statusReturn_sound (hr : RegsInv s) {c : StatusCaller} (hc : c.Due s) :
    Sound (statusReturn c s) := by
  cases c with
  | host | wire => exact endOp_sound hr ..
  | poll c => exact pollDecide_sound hr hc

theorem statusAnswered_sound (hr : RegsInv s) {c : StatusCaller} (hc : c.Due s) (rx : List Byte) :
    Sound (statusAnswered c rx s) := by
  unfold statusAnswered
  dsimp only
  split
  · exact statusReturn_sound hr.congr (StatusCaller.Due.congr hc)
  · exact raise_sound hr.congr (StatusCaller.Due.congr hc).owner (by decide)

theorem selectAnswered_sound (hr : RegsInv s) {c : StatusCaller} (hc : c.Due s) (ok : Bool) :
    Sound (selectAnswered c ok s) := by
  cases ok <;> exact ⟨hr.congr, StatusCaller.Due.congr hc⟩

theorem selectAgainAnswered_sound (hr : RegsInv s) {c : StatusCaller} (hc : c.Due s) (ok : Bool) :
    Sound (selectAgainAnswered c ok s) := by
  cases ok
  · exact raise_sound hr.congr (StatusCaller.Due.congr hc).owner (by decide)
  · exact ⟨hr.congr, StatusCaller.Due.congr hc⟩

/-! ### Exchanges -/

/-- A header that announces more than 120 bytes is `BAD_HEADER` before any data is read (R234). -/
theorem headerRead_sound (hr : RegsInv s) (hs : Receiving s) (h : List Byte) :
    Sound (headerRead h s) := by
  unfold headerRead
  split
  · exact raise_sound (o := .transfer) hr hs.1 (by decide)
  · rename_i hn
    refine startReadData_sound hr ⟨hs.congr, ?_⟩ (Nat.le_of_not_lt hn)
    simp [startReadData, allOnes, Nat.add_comm]

/-- The data is as long as its header says, so `AcceptBlock` and `Finish` are in order (R158). -/
theorem dataRead_sound (hr : RegsInv s) (hs : Receiving s) {h d : List Byte}
    (hd : d.length = (byteAt h 1).toNat) : Sound (dataRead h d s) := by
  have hvalid := hs.valid
  unfold dataRead
  simp only [orRaise]
  cases ha : acceptBlock h d s.snap s with
  | error e =>
    obtain ⟨-, hv | hl⟩ | ⟨rfl, -⟩ := acceptBlock_error s ha
    · simp [hvalid] at hv
    · exact absurd hd hl
    · exact raise_sound (o := .transfer) hr hs.1 (by decide)
  | ok p =>
    obtain ⟨done, t⟩ := p
    obtain ⟨-, -, -, -, rfl⟩ := acceptBlock_ok s ha
    have hr' : RegsInv { s with acc := s.acc ++ bytesFrom d Const.reservedRx } := hr.congr
    dsimp only
    split
    · have hfin : finish { s with acc := s.acc ++ bytesFrom d Const.reservedRx }
          = .ok (s.acc ++ bytesFrom d Const.reservedRx) := by simp [finish, hvalid]
      rw [hfin]
      exact endOp_sound hr' ..
    · exact startWriteStatus_sound hr' hs.congr

/-- The block that `NextHeader` described has 1 to 120 bytes (R152, R233). -/
theorem nextData_of_described (hvalid : s.fragValid = true) (hlen : 1 ≤ s.curLen) :
    nextData s = .ok (slice s.pay s.curOff s.curLen) := by
  have : s.curLen ≠ 0 := by omega
  simp [nextData, hvalid, this]

/-- The bytes that answered the body of a read are as many as it asked for (R94, R212). -/
theorem bodyReply_length {n : Nat} (hx : s.xCmd.length = 1 + n)
    (hl : s.xReply.length = 9 + s.xCmd.length + s.xRel.length) :
    (bodyReply (cReply s) n).length = n := by
  simp only [bodyReply, cReply, commandReply, slice, Const.prefixLen, List.length_take,
    List.length_drop]
  omega

/-- What an understood exchange does next (R173, R183, R233, R234). -/
theorem exchangeReturn_sound (hr : RegsInv s) {k : ExchCaller} (hk : k.Due s)
    (hl : s.xReply.length = 9 + s.xCmd.length + s.xRel.length) : Sound (exchangeReturn k s) := by
  cases k with
  | host | wire => exact endOp_sound hr ..
  | pollWrite c => exact startRun_sound hr (PollCaller.Due.congr hk)
  | pollRun c => exact pollNext_sound hr hk
  | pollBump c => exact pollNext_sound hr.congr (PollCaller.Due.congr hk)
  | porWrite p =>
    cases p with
    | alone => exact startRun_sound hr hk
    | poll c => exact startRun_sound hr ⟨hk.1, PollCaller.Due.congr hk.2⟩
  | porRun p =>
    cases p with
    | alone => exact endOp_sound hr ..
    | poll c => exact pollNext_sound hr hk.2
  | tSHdr =>
    obtain ⟨hs, hlen⟩ := hk
    have hvalid := hs.valid
    simp only [exchangeReturn, orRaise, nextData_of_described hvalid hlen]
    refine startWriteData_sound hr hs.congr ?_
    exact (List.length_take_le ..).trans (hr.fragments hvalid).block
  | tSData => exact startWriteStatus_sound hr (Sending.congr hk)
  | tSWs => exact startRun_sound hr (Sending.congr hk)
  | tSRun =>
    obtain ⟨ha, hside⟩ := hk
    simp only [exchangeReturn]
    split
    · rename_i hm
      exact startPoll_sound hr (c := .sendLoop) ⟨⟨ha, hside⟩, hm⟩ ..
    · rename_i hm
      have hc : PollCaller.receiveLoop.Due { s with inReceive := true } :=
        ⟨ha, rfl, Bool.eq_false_iff.2 hm⟩
      exact startPoll_sound hr.congr hc ..
  | tRHdr => exact headerRead_sound hr hk _
  | tRData h => exact dataRead_sound hr hk.1 (bodyReply_length hk.2 hl)
  | tRWs => exact startRun_sound hr (Receiving.congr hk)
  | tRRun => exact startPoll_sound hr (c := .receiveLoop) hk ..

theorem sampled_sound (hr : RegsInv s) {k : ExchCaller} (hk : k.Due s)
    (hl : s.xReply.length = 9 + s.xCmd.length + s.xRel.length) (b : Bool) : Sound (sampled k b s) := by
  unfold sampled
  split
  · exact raise_sound hr hk.owner (by decide)
  · exact exchangeReturn_sound hr hk hl

theorem blockAnswered_sound (hr : RegsInv s) {k : ExchCaller} (hk : k.Due s)
    (hf : FrameSized s.xCmd s.xRel) {rx : List Byte} (hl : rx.length = (frameOut s).length) :
    Sound (blockAnswered k rx s) := by
  rw [frameOut_length] at hl
  have hk' : k.Due (blockAnswered k rx s) := ExchCaller.Due.congr hk
  refine ⟨hr.congr, ?_⟩
  have hphase : (blockAnswered k rx s).phase = if s.xPower then .smart k else .bit k := rfl
  rw [hphase]
  split <;> exact ⟨hk', hf, hl⟩

/-! ### Answers taken -/

/-- The answer of `SpeedGet` (R231). -/
theorem speedAnswered_sound (hr : RegsInv s) (h : s.porAdjust = 0) (code : Int) (sp : Speed) :
    Sound (speedAnswered code sp s) := by
  cases sp
  · exact endOp_sound hr.congr ..
  · refine startAttempt_sound ?_ h.symm (Nat.succ_pos 2)
    exact (hr.setAttempt (n := 0) (by decide)).congr

/-- Every answer that is taken keeps the invariant but for `LOCK` and the owner. -/
theorem Fed.sound {a : Answer} {t : State} (h : Fed s a t) (hs : Sound s) : Sound t := by
  obtain ⟨hr, hd⟩ := hs
  cases h with
  | speed hp =>
    rw [hp] at hd
    exact speedAnswered_sound hr hd ..
  | select hp =>
    rw [hp] at hd
    exact selectAnswered_sound hr hd _
  | selectAgain hp =>
    rw [hp] at hd
    exact selectAgainAnswered_sound hr hd _
  | status hp =>
    rw [hp] at hd
    exact statusAnswered_sound hr.congr (StatusCaller.Due.congr hd) _
  | statusFail hp =>
    rw [hp] at hd
    exact raise_sound hr.congr (StatusCaller.Due.congr hd).owner (by decide)
  | block hp hl =>
    obtain hp | hp := hp <;>
    · rw [hp] at hd
      obtain ⟨hk, hf⟩ := hd
      exact blockAnswered_sound hr hk hf hl
  | blockFail hp | smart hp =>
    rw [hp] at hd
    obtain ⟨hk, hframe⟩ := hd
    exact ⟨hr.congr, ExchCaller.Due.congr hk, hframe⟩
  | retryFail hp =>
    rw [hp] at hd
    obtain ⟨hk, -⟩ := hd
    exact raise_sound hr.congr (ExchCaller.Due.congr hk).owner (by decide)
  | powerBit hp | bit hp =>
    rw [hp] at hd
    obtain ⟨hk, -, hreply⟩ := hd
    exact sampled_sound (s := emit _ s) hr.congr (ExchCaller.Due.congr hk) hreply _

end

/-! ### The invariant over steps -/

section
variable {s t : State}

/-- What continues an operation of the host's that holds `LOCK`, and is sound, keeps the invariant. -/
theorem Continues.inv {o : Owner} (h : Continues t o true) (ho : o ≠ .caller) (hs : Sound t) :
    Inv t := by
  obtain ⟨hidle, hactive⟩ := h.exits ho
  refine inv_iff.2 ⟨hs, ?_, ?_⟩
  · by_cases hi : t.phase = .idle
    · simp [hi, (hidle hi).1]
    · simp [hi, (hactive hi).1]
  · by_cases hi : t.phase = .idle
    · simp [hi, Phase.owner]
    · exact (hactive hi).2

/-- The registers of the invariant, in a state that has it. -/
theorem Inv.sound (h : Inv s) : Sound s := (inv_iff.1 h).1

/-- Every answer that is taken keeps the invariant. -/
theorem Fed.inv {a : Answer} (hf : Fed s a t) (hi : s.phase ≠ .idle) (h : Inv s) : Inv t := by
  obtain ⟨o, ho, hc⟩ := hf.continues
  rw [h.lock.2 hi] at hc
  refine hc.inv (fun k => h.owner ?_) (hf.sound h.sound)
  rw [ho, k]

/-- What passes over the ports is not in the invariant. -/
theorem Inv.setPorts (h : Inv s) (host : List Request) (answers : List Answer) (trace : List Event)
    (result : Option Result) :
    Inv { s with host := host, answers := answers, trace := trace, result := result } :=
  { h with fragments := fun hv => (h.fragments hv).congr }

/-- A run on answers keeps the invariant. -/
theorem resume_inv (h : Inv s) (hr : resume s = .next t) : Inv t :=
  drive_keeps (P := Inv) (fun _ _ _ hu hi hf => (feed_fed hi hf).inv hi hu)
    (fun _ l hu => hu.setPorts _ l _ _) _ s t h hr

/-- An operation that takes `LOCK` begins in order (R71, R90). -/
theorem startOf_sound {i : Instr} (hl : locks i = true) (hwf : i.wf = true) (hr : RegsInv s) :
    Sound (startOf i s) := by
  have ended : ∀ {α : Type} (r : Except Error α) (ok : α → Value × State),
      (∀ a, r = .ok a → RegsInv (ok a).2) → Sound (endWith r s ok) := by
    intro α r ok hok
    cases r with
    | error e => exact endOp_sound hr ..
    | ok a => exact endOp_sound (hok a rfl) ..
  cases i with
  | fraginit payload =>
    simp only [startOf]
    obtain ⟨-, hf⟩ | ⟨⟨h1, hm⟩, hf⟩ := fragInit_cases s payload <;> rw [hf]
    · exact endOp_sound hr.forgetPayload ..
    · exact endOp_sound (hr.loadPayload h1 hm) ..
  | nextheader =>
    refine ended _ _ fun a ha => ?_
    obtain ⟨header, u⟩ := a
    obtain ⟨hvalid, hmore, -, rfl⟩ := nextHeader_ok s ha
    exact { hr with fragments := fun _ => (hr.fragments hvalid).nextHeader hmore }
  | acceptblock =>
    refine ended _ _ fun a ha => ?_
    obtain ⟨done, u⟩ := a
    obtain ⟨-, -, -, -, rfl⟩ := acceptBlock_ok s ha
    exact hr.congr
  | nextdata | finish => exact ended _ _ fun _ _ => hr
  | readstatus => exact ⟨hr.congr, trivial⟩
  | poll => exact startPoll_sound hr (c := .host) trivial ..
  | transfer =>
    exact ⟨{ hr with
      adjustment := Nat.zero_le _, lastError := fun _ he => by cases he
      fragments := fun hv => (hr.fragments hv).congr }, rfl⟩
  | exchange cmdbytes rel power ms =>
    simp only [Instr.wf, cmdFits, relFits, Bool.and_eq_true, Bool.or_eq_true, decide_eq_true_eq] at hwf
    obtain ⟨⟨h1, hm⟩, hrel⟩ := hwf
    exact startExchange_sound hr trivial ⟨h1, hm, by omega, by omega⟩
  | writeheader h => exact startWriteHeader_sound hr trivial (of_decide_eq_true hwf)
  | writedata d =>
    simp only [Instr.wf, dataFits, Bool.and_eq_true, decide_eq_true_eq] at hwf
    exact startWriteData_sound hr trivial hwf.2
  | readdata n => exact startReadData_sound hr trivial (of_decide_eq_true hwf)
  | readheader => exact startReadHeader_sound hr trivial
  | writestatus => exact startWriteStatus_sound hr trivial
  | run => exact startRun_sound hr trivial
  | interrupt | devreset => exact startExchange_sound hr trivial (frameSized_pair _ (by simp))
  | _ => cases hl

/-- After block reset the invariant holds, for every configuration with legal tunables (R35, R290). -/
theorem initial_inv {cfg : Cfg} (addr : Addr) (hb : Const.baseMin ≤ cfg.baseReset.toNat)
    (hi : Const.incrMin ≤ cfg.incrReset.toNat) : Inv (State.initial cfg addr) := by
  have hr : RegsInv (State.initial cfg addr) :=
    { base := hb, increment := hi, baseReset := hb, incrementReset := hi, table := rfl
      iterations := Nat.zero_le _, attempts := Nat.zero_le _, adjustment := Nat.zero_le _
      fragments := fun hv => by cases hv
      lastError := fun e he => by cases he }
  exact inv_iff.2 ⟨⟨hr, trivial⟩, by simp [State.initial], by simp [State.initial, Phase.owner]⟩

/-- An operation that answers a next state keeps the invariant, if it is one of the host's. -/
theorem Executed.inv {i : Instr} (hx : Executed i s t) (hi : insideOf i = false) (h : Inv s) :
    Inv t := by
  cases hx with
  | gave r base incr hb hin =>
    refine { h with base := ?_, increment := ?_, fragments := fun hv => (h.fragments hv).congr }
    · obtain rfl | ⟨-, hle⟩ := hb
      · exact h.base
      · exact hle
    · obtain rfl | ⟨-, hle⟩ := hin
      · exact h.increment
      · exact hle
  | held => exact h.setPorts ..
  | ran hk hwf hp _ hr =>
    have hl : locks i = true := hk.resolve_right (by simp [hi])
    have hbegun : begun i s = { s with lock := true } := by simp [begun, hl]
    rw [hbegun] at hr
    obtain ⟨o, ho, hc⟩ := startOf_continues hl { s with lock := true }
    exact resume_inv (hc.inv ho (startOf_sound hl hwf h.sound.regs.congr)) hr

end

/-- The host port selects no operation of a caller that holds `LOCK` (R89). -/
theorem decodeHost_not_inside {w : HostWord} {i : Instr} (h : decodeHost w = .ok i) :
    insideOf i = false := by
  have typed : ∀ {j : Instr}, checkTyped j = .ok i → insideOf j = false → insideOf i = false := by
    intro j hj hn
    unfold checkTyped at hj
    split at hj <;> cases hj
    exact hn
  unfold decodeHost hostRow at h
  repeat' split at h
  all_goals try exact typed h rfl
  all_goals cases h

/-! ### The obligations of 10_state -/

/-- Settles O52: each register read off the reset state. -/
theorem resetLeavesTheListedValues : Obligations.ResetLeavesTheListedValues := by
  unfold Obligations.ResetLeavesTheListedValues
  rintro s rfl
  and_intros <;> rfl

/-- Settles O54: the default tunables of R7 are legal. -/
theorem invHoldsAtReset : Obligations.InvHoldsAtReset :=
  initial_inv _ (by decide) (by decide)

/-- Settles O51: an operation gives a result, is held or runs; only the first of these writes a
tunable, only the second the host port. -/
theorem operationsKeepConfiguration : Obligations.OperationsKeepConfiguration := by
  unfold Obligations.OperationsKeepConfiguration
  refine ⟨fun s s' i h => ?_, fun s s' hh h => ?_⟩
  · cases exec_executed h with
    | gave r base incr hb hi =>
      exact ⟨rfl, rfl, rfl, fun hn => hb.resolve_right fun ⟨⟨ms, k⟩, _⟩ => hn ms k,
        fun hn => hi.resolve_right fun ⟨⟨ms, k⟩, _⟩ => hn ms k, fun _ => rfl⟩
    | held w hb =>
      refine ⟨rfl, rfl, rfl, fun _ => rfl, fun _ => rfl, fun hr => ?_⟩
      simp [busy_eq_false.2 hr] at hb
    | ran _ _ _ _ hr =>
      obtain ⟨hcfg, haddr, hcorr, hbase, hincr, hhost⟩ := ran_sameConfig hr
      exact ⟨hcfg, haddr, hcorr, fun _ => hbase, fun _ => hincr, fun _ => hhost⟩
  · have ha := resume_advances (step_resumes hh h)
    exact ⟨ha.cfg, ha.addr, ha.corr, ha.tBase, ha.tIncr, ha.opPayload, ha.host⟩

/-- Settles O57: answers taken do not set `POR_ARMED`, and of the operations only the start of a
transfer does. -/
theorem onlyTransferArms : Obligations.OnlyTransferArms := by
  unfold Obligations.OnlyTransferArms
  intro s s' h hs hs'
  have stays : ∀ {u : State}, Advances s u → u.porArmed ≠ true :=
    fun ha hu => by simp [ha.porArmed hu] at hs
  cases step_stepped h with
  | resumed hr => exact absurd hs' (stays (resume_advances hr))
  | wasReset => cases hs'
  | refused => exact absurd hs' (by simp [illegalOp, hs])
  | @executed w rest i _ hh hd he =>
    cases he with
    | gave | held => exact absurd hs' (by simp [hs])
    | ran _ _ hp hl hr =>
      by_cases hi : ∃ p c, i = .transfer p c
      · obtain ⟨p, c, rfl⟩ := hi
        exact ⟨w, rest, p, c, hh, hd, hl rfl, hp⟩
      · have hb := (startOf_advances (fun p c k => hi ⟨p, c, k⟩) _).porArmed
          ((resume_advances hr).porArmed hs')
        simp [begun, hs] at hb

/-- Settles O58: `LOCK` and the owner go with every move of the operation, up to its end. -/
theorem everyExitReleasesLock : Obligations.EveryExitReleasesLock := by
  unfold Obligations.EveryExitReleasesLock
  have locked : ∀ {t : State}, Released t → (t.phase = .idle → t.lock = false ∧ t.result ≠ none) ∧
      (t.phase ≠ .idle → t.lock = true) := fun h => ⟨h.1, fun hn => (h.2 hn).1⟩
  refine ⟨fun s s' i hl hwf hr h => ?_, fun s s' hn hl ho hh h => ?_, fun _ _ => rfl⟩
  · obtain ⟨o, ho, hc⟩ := startOf_continues hl { s with lock := true }
    rw [exec_locked hl, issueLocked_ready hwf hr.1 hr.2] at h
    exact locked (resume_exits (hc.exits ho) h)
  · exact locked (resume_exits ⟨fun hi => absurd hi hn, fun _ => ⟨hl, ho⟩⟩ (step_resumes hh h))

/-- Settles O55: the answers taken keep the invariant, and so do the start of every operation of the
host port, a tunable set and block reset. -/
theorem stepKeepsInv : Obligations.StepKeepsInv := by
  unfold Obligations.StepKeepsInv
  intro s s' h hs
  cases step_stepped hs with
  | resumed hr => exact resume_inv h hr
  | wasReset => exact (initial_inv _ h.baseReset h.incrementReset).setPorts ..
  | refused => exact h.setPorts ..
  | executed _ hd he =>
    exact he.inv (decodeHost_not_inside hd) (h.setPorts _ s.answers s.trace s.result)

end Sys2Proof.Machine

/-! SUPPORT. Proofs of the family 20_memory: when a step stops, what it keeps of the record, and whose
request it takes. -/

namespace Sys2Proof.Machine

/-! ### Answers that a call can and cannot have (R62, R63, R73) -/

/-- An answer that the call being made can have is taken. -/
theorem fed_of_fits {a : Answer} {s : State} (h : fits s a = true) : ∃ t, Fed s a t := by
  unfold fits at h
  split at h <;> split at h <;> try cases h
  exacts [⟨_, .speed ‹_›⟩,
    ⟨_, .select ‹_›⟩, ⟨_, .selectAgain ‹_›⟩,
    ⟨_, .status ‹_› (by simpa [statusFrame, allOnes] using h)⟩,
    ⟨_, .block (.inl ‹_›) (by simpa [frameOut_length] using h)⟩,
    ⟨_, .block (.inr ‹_›) (by simpa [frameOut_length] using h)⟩,
    ⟨_, .statusFail ‹_›⟩, ⟨_, .blockFail ‹_›⟩, ⟨_, .retryFail ‹_›⟩,
    ⟨_, .smart ‹_›⟩,
    ⟨_, .powerBit ‹_›⟩, ⟨_, .bit ‹_›⟩]

/-- Only these answers are taken while a call is being made. -/
theorem Fed.answerFits {a : Answer} {s t : State} (h : Fed s a t) : fits s a = true := by
  cases h with
  | status hp hl => simpa [fits, hp, statusFrame, allOnes] using hl
  | block hp hl =>
    rw [frameOut_length] at hl
    obtain hp | hp := hp <;> simp [fits, hp, hl]
  | speed hp | select hp | selectAgain hp | statusFail hp | blockFail hp | retryFail hp | smart hp
  | powerBit hp | bit hp => simp [fits, hp]

/-- The stop that an answer of no use to the call makes: a failure of a call that cannot fail has no
move (R73, U5), anything else is no answer of it (R62, R63; log 10). -/
def misfitStop (a : Answer) : Outcome := if a = .fail then .refused .callFailed else .fault .wrongAnswer

/-- While a call is being made an answer is taken, or the block stops: nine calls, each with the answers
it takes, its failure and the rest. -/
theorem feed_cases {a : Answer} {s : State} (hi : s.phase ≠ .idle) :
    (∃ t, feed a s = .next t) ∨ feed a s = misfitStop a := by
  unfold feed
  split
  · contradiction
  all_goals split
  any_goals exact .inl ⟨_, rfl⟩
  any_goals exact .inr rfl
  any_goals exact .inr (if_neg ‹_›).symm
  all_goals split
  any_goals exact .inl ⟨_, rfl⟩
  all_goals exact .inr rfl

/-- An answer that the call being made cannot have stops the block. -/
theorem feed_misfit {a : Answer} {s : State} (hi : s.phase ≠ .idle) (h : fits s a = false) :
    feed a s = misfitStop a := by
  refine (feed_cases hi).resolve_left ?_
  rintro ⟨t, ht⟩
  simp [(feed_fed hi ht).answerFits] at h

/-- So does a run on answers that begins with it. -/
theorem drive_misfit {a : Answer} {as : List Answer} {s : State} (hi : s.phase ≠ .idle)
    (h : feed a s = misfitStop a) : drive (a :: as) s = misfitStop a := by
  unfold drive
  split
  · contradiction
  · rw [h]
    by_cases ha : a = .fail <;> simp only [misfitStop, ha, if_true, if_false]

/-! ### What stops a step -/

/-- The outcomes of a run on answers: it goes on, or stops for an answer that its call cannot have. -/
inductive StopsOnAnswer : Outcome → Prop
  | goes (s : State) : StopsOnAnswer (.next s)
  | wrongAnswer : StopsOnAnswer (.fault .wrongAnswer)
  | callFailed : StopsOnAnswer (.refused .callFailed)

theorem misfitStop_stops (a : Answer) : StopsOnAnswer (misfitStop a) := by
  unfold misfitStop
  split
  · exact .callFailed
  · exact .wrongAnswer

theorem drive_stops (as : List Answer) (s : State) : StopsOnAnswer (drive as s) := by
  induction as generalizing s with
  | nil => exact .goes _
  | cons a as ih =>
    by_cases hi : s.phase = .idle
    · rw [drive_idle hi]
      exact .goes _
    · obtain ⟨t, ht⟩ | hstop := feed_cases (a := a) hi
      · rw [drive_cons hi ht]
        exact ih t
      · rw [drive_misfit hi hstop]
        exact misfitStop_stops a

/-- An operation of the host port has no other stop: one that takes `LOCK` can be held there (R71), and
one that takes none makes no call (R89). -/
theorem exec_stops {i : Instr} (hi : insideOf i = false) (s : State) : StopsOnAnswer (exec i s) := by
  cases hl : locks i with
  | false =>
    obtain ⟨r, base, incr, he, -⟩ := exec_atOnce hl hi s
    rw [he]
    exact .goes _
  | true =>
    obtain ⟨w, hw⟩ := hostWord_of_locks hl
    rw [exec_locked hl]
    unfold issueLocked
    split
    · exact .goes _
    · split
      · rw [hold, hw]
        exact .goes _
      · exact drive_stops ..

/-- A step stops for an answer, or because it would take a block reset inside an operation (R290, U7). -/
theorem step_stops (s : State) : StopsOnAnswer (step s) ∨
    (step s = .refused .resetInOperation ∧ s.phase ≠ .idle ∧
      ∃ addr rest, s.host = .reset addr :: rest) := by
  unfold step
  split
  · exact .inl (drive_stops ..)
  · rename_i addr rest hh
    unfold blockReset
    split
    · exact .inl (.goes _)
    · exact .inr ⟨rfl, ‹_›, addr, rest, hh⟩
  · unfold serve
    split
    · exact .inl (.goes _)
    · split
      · exact .inl (drive_stops ..)
      · exact .inl (exec_stops (decodeHost_not_inside ‹_›) _)

/-- A step with one answer at hand and no request, while a call is being made: the answer stops it. -/
theorem step_misfit {a : Answer} {s : State} (hh : s.host = []) (ha : s.answers = [a])
    (hi : s.phase ≠ .idle) (h : fits s a = false) : step s = misfitStop a := by
  rw [step_noRequest hh, ha, drive_misfit hi (feed_misfit hi h)]

/-! ### The record of events and `MIN_READ_RT` -/

/-- The trace grows at its end (R69) and `MIN_READ_RT` does not fall (R22). -/
structure Grows (s t : State) : Prop where
  trace : s.trace <+: t.trace
  minReadRt : s.minReadRt ≤ t.minReadRt

theorem Grows.trans {s t u : State} (h : Grows s t) (k : Grows t u) : Grows s u :=
  ⟨h.trace.trans k.trace, h.minReadRt.trans k.minReadRt⟩

theorem Advances.grows {s t : State} (h : Advances s t) : Grows s t := { h with }

/-- Where neither is written, both stay. -/
theorem Grows.same {s t : State} (ht : t.trace = s.trace := by rfl)
    (hm : t.minReadRt = s.minReadRt := by rfl) : Grows s t :=
  ⟨ht ▸ List.prefix_rfl, hm.ge⟩

/-- The start of an operation, `TRANSFER` included. -/
theorem startOf_grows (i : Instr) (s : State) : Grows s (startOf i s) := by
  by_cases hi : ∃ p c, i = .transfer p c
  · obtain ⟨p, c, rfl⟩ := hi
    exact .same
  · exact (startOf_advances (fun p c k => hi ⟨p, c, k⟩) s).grows

/-- An operation that answers a next state. -/
theorem Executed.grows {i : Instr} {s t : State} (h : Executed i s t) : Grows s t := by
  cases h with
  | gave | held => exact .same
  | ran _ _ _ _ hr =>
    have hb : Grows s (begun i s) := .same
    exact (hb.trans (startOf_grows i _)).trans (resume_advances hr).grows

/-- Every step but the one that takes a block reset. -/
theorem Stepped.grows {s t : State} (h : Stepped s t)
    (hn : ∀ addr rest, s.host ≠ .reset addr :: rest) : Grows s t := by
  cases h with
  | resumed hr => exact (resume_advances hr).grows
  | wasReset hh => exact absurd hh (hn _ _)
  | refused => exact .same
  | @executed w rest _ _ _ _ he =>
    have hs : Grows s { s with host := rest } := .same
    exact hs.trans he.grows

/-- Block reset keeps the record (log 17), so every step appends to it. -/
theorem Stepped.trace {s t : State} (h : Stepped s t) : s.trace <+: t.trace := by
  cases h with
  | resumed hr => exact (resume_advances hr).trace
  | wasReset | refused => exact List.prefix_rfl
  | executed _ _ he => exact he.grows.trace

/-! ### The request at the head of the host port -/

/-- A request that selects an operation is taken off and executed, if it takes no lock or the block is
free (R71, R86). -/
theorem step_serves {s : State} {w : HostWord} {rest : List Request} {i : Instr}
    (hh : s.host = .op w :: rest) (hd : decodeHost w = .ok i) (hf : locks i = false ∨ Ready s) :
    step s = exec i { s with host := rest } := by
  have hfree : (locks i && busy s) = false :=
    Bool.and_eq_false_iff.2 (hf.imp_right busy_eq_false.2)
  simp only [step, hh, serve, hd, hfree, Bool.false_eq_true, if_false]

/-- A request that takes the lock is held while an operation is under way, which goes on (R71). -/
theorem step_holds {s : State} {w : HostWord} {rest : List Request} {i : Instr}
    (hh : s.host = .op w :: rest) (hd : decodeHost w = .ok i) (hl : locks i = true)
    (hn : ¬ Ready s) : step s = resume s := by
  have hb : busy s = true := Bool.of_not_eq_false (mt busy_eq_false.1 hn)
  simp only [step, hh, serve, hd, hl, hb, Bool.and_true, if_true]

/-! ### The obligations of 20_memory -/

/-- Settles O7: the branch of `serve` for a request that is not held. -/
theorem stepRunsDecodedOperation : Obligations.StepRunsDecodedOperation := by
  unfold Obligations.StepRunsDecodedOperation
  intro s w rest i
  exact step_serves

/-- Settles O8: the other branch; what goes on leaves the host port alone. -/
theorem heldOperationWaits : Obligations.HeldOperationWaits := by
  unfold Obligations.HeldOperationWaits
  intro s w rest i hh hd hl hn
  have hstep := step_holds hh hd hl hn
  exact ⟨hstep, fun s' h => (resume_advances (hstep ▸ h)).host⟩

/-- Settles O56: what was run on answers advances, and no start of an operation writes the two
registers but by appending. -/
theorem traceAndMinReadRtOnlyGrow : Obligations.TraceAndMinReadRtOnlyGrow := by
  unfold Obligations.TraceAndMinReadRtOnlyGrow
  intro s s' h
  obtain ⟨es, hes⟩ := (step_stepped h).trace
  exact ⟨⟨es, hes.symm⟩, fun hn => ((step_stepped h).grows hn).minReadRt⟩

/-- Settles O59: an answer that fits is taken, another stops the step by the name of its kind; and a run
on answers can be cut anywhere. -/
theorem stepsStopOnlyByName : Obligations.StepsStopOnlyByName := by
  unfold Obligations.StepsStopOnlyByName
  refine ⟨fun s a hh ha => ⟨?_, fun hi hf he => ?_, fun hi hf he => ?_⟩, fun s f h => ?_,
    fun s r h => ?_, fun s s' as bs hh h => step_append hh h⟩
  · intro h
    by_cases hi : s.phase = .idle
    · exact ⟨_, by rw [step_noRequest hh, drive_idle hi]⟩
    · obtain ⟨t, ht⟩ := fed_of_fits (h.resolve_left hi)
      exact ⟨_, step_oneAnswer hh ha hi ht⟩
  · rw [step_misfit hh ha hi hf]
    exact if_pos he
  · rw [step_misfit hh ha hi hf]
    exact if_neg he
  · obtain hs | ⟨hr, -⟩ := step_stops s
    · rw [h] at hs
      cases hs
      rfl
    · simp [h] at hr
  · obtain hs | ⟨hr, hp, hreset⟩ := step_stops s
    · rw [h] at hs
      cases hs
      exact .inl rfl
    · rw [h] at hr
      cases hr
      exact .inr ⟨rfl, hp, hreset⟩

end Sys2Proof.Machine

/-! SUPPORT. Proofs of the family 30_encoding: the decoder and the encoder undo each other, the wire
commands make their exchanges, and the bus carries frames and status exchanges only. -/

namespace Sys2Proof.Machine

/-! ### Typed operands -/

/-- What is typed is the operation itself, and its operands are of their types (R90 b). -/
theorem checkTyped_ok {i j : Instr} : checkTyped j = .ok i ↔ j = i ∧ i.wf = true := by
  unfold checkTyped
  split
  · constructor
    · rintro ⟨⟩
      exact ⟨rfl, ‹_›⟩
    · rintro ⟨rfl, -⟩
      rfl
  · constructor
    · rintro ⟨⟩
    · rintro ⟨rfl, h⟩
      contradiction

/-- The only refusal of a typing is `operandType`. -/
theorem checkTyped_error {i : Instr} {e : DecodeError} :
    checkTyped i = .error e ↔ e = .operandType ∧ i.wf = false := by
  unfold checkTyped
  by_cases h : i.wf = true <;> simp [h, eq_comm]

/-! ### The host port -/

/-- An operation byte without reserved bits is its number (R86). -/
theorem op_eq_of_opHigh {op : Byte} (h : opHigh op = 0) : op = BitVec.ofNat 8 (opNumber op) := by
  have := congrArg BitVec.toNat h
  apply BitVec.eq_of_toNat_eq
  simp [opHigh, opNumber, Nat.shiftRight_eq_div_pow] at this ⊢
  omega

/-- A host word without reserved bits selects the row of its number (R86, R89). -/
theorem decodeHost_row {op : Byte} (h : opHigh op = 0) (p : Ports) :
    decodeHost ⟨op, p⟩ = hostRow (opNumber op) p := if_neg (not_not.2 h)

/-- The number that selects a row of R89 is the code of the operation it gives, and the operands are of
their types. -/
theorem hostRow_ok {n : Nat} {p : Ports} {i : Instr} (h : hostRow n p = .ok i) :
    (∃ q, hostWord i = some ⟨BitVec.ofNat 8 n, q⟩) ∧ i.wf = true := by
  have row : ∀ {j : Instr}, checkTyped j = .ok i → (∃ q, hostWord j = some ⟨BitVec.ofNat 8 n, q⟩) →
      (∃ q, hostWord i = some ⟨BitVec.ofNat 8 n, q⟩) ∧ i.wf = true := by
    intro j hj hw
    obtain ⟨rfl, hwf⟩ := checkTyped_ok.1 hj
    exact ⟨hw, hwf⟩
  unfold hostRow at h
  split at h
  case h_15 =>
    split at h
    · exact row h ⟨_, rfl⟩
    · cases h
  case h_25 => cases h
  all_goals exact row h ⟨_, rfl⟩

/-- A host word that decodes has the code of what it decodes to, and well-typed operands. -/
theorem decodeHost_ok {w : HostWord} {i : Instr} (h : decodeHost w = .ok i) :
    (∃ q, hostWord i = some ⟨w.op, q⟩) ∧ i.wf = true := by
  unfold decodeHost at h
  split at h
  · cases h
  · rename_i hh
    rw [op_eq_of_opHigh (not_not.1 hh)]
    exact hostRow_ok h

/-- The host word of a well-formed operation decodes to it (R86, R89). -/
theorem decodeHost_hostWord {i : Instr} {w : HostWord} (hi : i.wf = true) (hw : hostWord i = some w) :
    decodeHost w = .ok i := by
  cases i <;> cases hw <;> exact (decodeHost_row rfl _).trans (checkTyped_ok.2 ⟨rfl, hi⟩)

/-! ### Frames -/

/-- A string has a body before a trailer exactly if it is the body and the trailer. -/
theorem bodyBefore_eq_some {rel rest b : List Byte} :
    bodyBefore rel rest = some b ↔ rest = b ++ rel := by
  unfold bodyBefore
  constructor
  · intro h
    split at h
    · rename_i hr
      cases h
      conv_lhs => rw [← List.take_append_drop (rest.length - rel.length) rest, hr.2]
    · cases h
  · rintro rfl
    simp

@[simp] theorem bodyBefore_append (b rel : List Byte) : bodyBefore rel (b ++ rel) = some b :=
  bodyBefore_eq_some.2 rfl

/-- The command byte of a frame stands after marker and address, body and trailer after it (R81). -/
theorem decodeWire_frame (cfg : Cfg) (addr : Addr) (cmd : Byte) (body : List Byte) {rel : List Byte}
    (ms : Nat) (h : 2 ≤ rel.length) :
    decodeWire cfg (frameBytes cfg addr (cmd :: body) rel) ms = wireRow cfg cmd (body ++ rel) ms := by
  have ha : addr.toList.length = 8 := addr.length_toList
  have hl : 12 ≤ (frameBytes cfg addr (cmd :: body) rel).length := by
    simp [frameBytes, ha]
    omega
  have hc : (frameBytes cfg addr (cmd :: body) rel).getD 9 0 = cmd := by simp [frameBytes, ha]
  have hd : (frameBytes cfg addr (cmd :: body) rel).drop 10 = body ++ rel := by
    simp [frameBytes, List.drop_append, ha]
  unfold decodeWire
  rw [if_neg (by omega), if_neg (by omega), if_neg (by simp [frameBytes]), hc, hd]

@[simp] theorem allOnes_length (n : Nat) : (allOnes n).length = n := List.length_replicate

/-- The code of a write status is read back from its byte (R87 f). -/
theorem codeByte_toNat (c : Code) : (codeByte c).toNat = c.val := by
  rw [codeByte_eq, BitVec.toNat_ofNat]
  omega

/-- What a wire command puts on the bus decodes to it: no command byte is that of a row above its own
(R7, R88). -/
theorem decodeWire_wireBytes {cfg : Cfg} {addr : Addr} {i : Instr} {tx : List Byte} {ms : Nat}
    (hc : cfg.commands.Nodup) (hi : i.wf = true) (hw : wireBytes cfg addr i = some (tx, ms)) :
    decodeWire cfg tx ms = .ok i := by
  have hcode : ∀ r : RelCode, 2 ≤ r.bytes.length := fun r => (relCode_length r).1
  have hpair : ∀ r : RelPair, 2 ≤ r.bytes.length := fun r => le_refl 2
  have hne := List.nodup_reverse.2 hc
  simp only [Cfg.commands, List.reverse_cons, List.reverse_nil, List.nil_append, List.cons_append,
    List.nodup_cons, List.mem_cons, List.not_mem_nil, or_false, not_or] at hne
  cases i <;> cases hw
  case wireWriteHeader | wireWriteData | wireReadData =>
    rw [decodeWire_frame _ _ _ _ _ (hcode _)]
    simp only [wireRow, hne, if_true, if_false, bodyBefore_append, allOnes_length]
    exact checkTyped_ok.2 ⟨rfl, hi⟩
  case wireReadHeader =>
    rw [decodeWire_frame _ _ _ _ _ (hcode _)]
    simp only [wireRow, hne, if_true, if_false, bodyBefore_append]
  case wireRun | wireInterrupt | wireReset =>
    rw [decodeWire_frame _ _ _ _ _ (hpair _)]
    simp only [wireRow, hne, if_true, if_false, List.nil_append]
  case wireWriteStatus c =>
    rw [decodeWire_frame _ _ _ _ _ (hpair _)]
    simp only [wireRow, hne, if_true, if_false, bodyBefore_append, codeByte_toNat, c.isLt, dite_true]
  case wireReadStatus => simp [decodeWire, statusFrame]

/-- Only an operation without a host code is a wire command (R88, R89). -/
theorem hostWord_of_wireBytes {cfg : Cfg} {addr : Addr} {i : Instr} {f : List Byte × Nat}
    (h : wireBytes cfg addr i = some f) : hostWord i = none := by
  cases i <;> first | rfl | cases h

/-- Only PORRECOVER has neither word (R89). -/
theorem eq_porrecover {cfg : Cfg} {addr : Addr} {i : Instr} (hw : hostWord i = none)
    (hb : wireBytes cfg addr i = none) : i = .porrecover := by
  cases i <;> first | rfl | cases hw; done | cases hb

/-- The command bytes of a configuration of R7 are different. -/
theorem commands_nodup {cfg : Cfg} (h : cfg.wf = true) : cfg.commands.Nodup := by
  simp only [Cfg.wf, Bool.and_eq_true, decide_eq_true_eq] at h
  obtain ⟨⟨⟨hc, -⟩, -⟩, -⟩ := h
  exact hc

/-- Settles O1: a host word selects the row of its code, a frame that of its command byte, and the
operands are read where they were written. -/
theorem decodeEncodeRoundTrip : Obligations.DecodeEncodeRoundTrip := by
  unfold Obligations.DecodeEncodeRoundTrip
  intro cfg addr i hcfg hi
  unfold encode
  cases hw : hostWord i with
  | some w => exact decodeHost_hostWord hi hw
  | none =>
    cases hb : wireBytes cfg addr i with
    | some f => exact decodeWire_wireBytes (commands_nodup hcfg) hi hb
    | none => exact congrArg _ (eq_porrecover hw hb).symm

/-! ### What a byte string on the bus means -/

/-- A frame's body may be read as part of its command or of what follows the command byte (R81). -/
theorem frameBytes_body (cfg : Cfg) (addr : Addr) (cmd : Byte) (body rel : List Byte) :
    frameBytes cfg addr [cmd] (body ++ rel) = frameBytes cfg addr (cmd :: body) rel := by
  simp [frameBytes]

/-- The wait beside the bytes of a wire command: that of a run or an interrupt, else 0 (log 16). -/
def WaitBeside (i : Instr) (ms ms' : Nat) : Prop :=
  ((i = .wireRun ms ∨ i = .wireInterrupt ms) ∧ ms' = ms) ∨
    ((∀ n, i ≠ .wireRun n) ∧ (∀ n, i ≠ .wireInterrupt n) ∧ ms' = 0)

/-- What a command byte and the bytes after it decode to has well-typed operands, and is written as them
in a frame to any address (R88): row by row, the body is what stands before the trailer. -/
theorem wireRow_ok {cfg : Cfg} {cmd : Byte} {rest : List Byte} {ms : Nat} {i : Instr}
    (h : wireRow cfg cmd rest ms = .ok i) : i.wf = true ∧ ∃ ms', WaitBeside i ms ms' ∧
      ∀ addr, wireBytes cfg addr i = some (frameBytes cfg addr [cmd] rest, ms') := by
  have framed : ∀ {b rel}, bodyBefore rel rest = some b →
      (∀ addr, wireBytes cfg addr i = some (frameBytes cfg addr (cmd :: b) rel, 0)) →
      ∀ addr, wireBytes cfg addr i = some (frameBytes cfg addr [cmd] rest, 0) := by
    intro b rel hb hw addr
    obtain rfl := bodyBefore_eq_some.1 hb
    rw [frameBytes_body, hw]
  unfold wireRow at h
  split at h
  · -- `CMD_WRITE_HEADER`
    subst_vars
    split at h
    · obtain ⟨rfl, hwf⟩ := checkTyped_ok.1 h
      exact ⟨hwf, 0, .inr (by simp), framed ‹_› fun _ => rfl⟩
    · cases h
  split at h
  · -- `CMD_READ_HEADER`
    subst_vars
    split at h <;> cases h
    exact ⟨rfl, 0, .inr (by simp), framed ‹_› fun _ => rfl⟩
  split at h
  · -- `CMD_WRITE_DATA`
    subst_vars
    split at h
    · obtain ⟨rfl, hwf⟩ := checkTyped_ok.1 h
      exact ⟨hwf, 0, .inr (by simp), framed ‹_› fun _ => rfl⟩
    · cases h
  split at h
  · -- `CMD_READ_DATA`
    subst_vars
    split at h
    · split at h
      · rename_i b hb hones
        obtain ⟨rfl, hwf⟩ := checkTyped_ok.1 h
        exact ⟨hwf, 0, .inr (by simp), framed hb fun _ => by rw [wireBytes, ← hones]⟩
      · cases h
    · cases h
  split at h
  · -- `CMD_RUN`
    split at h <;> cases h
    subst_vars
    exact ⟨rfl, ms, .inl (by simp), fun _ => rfl⟩
  split at h
  · -- `CMD_INTERRUPT`
    split at h <;> cases h
    subst_vars
    exact ⟨rfl, ms, .inl (by simp), fun _ => rfl⟩
  split at h
  · -- `CMD_RESET`
    split at h <;> cases h
    subst_vars
    exact ⟨rfl, 0, .inr (by simp), fun _ => rfl⟩
  split at h
  · -- `CMD_WRITE_STATUS`
    subst_vars
    split at h
    · split at h <;> cases h
      exact ⟨rfl, 0, .inr (by simp), framed ‹_› fun _ => by simp [wireBytes]⟩
    · cases h
  · cases h

/-- Twelve or more bytes with the marker first are a frame to the address they hold (R81, R82). -/
theorem exists_frameBytes {cfg : Cfg} {tx : List Byte} (hl : 12 ≤ tx.length)
    (hh : tx.head? = some cfg.selectCmd) :
    ∃ addr : Addr, tx = frameBytes cfg addr [tx.getD 9 0] (tx.drop 10) := by
  have haddr : ((tx.drop 1).take 8).length = 8 := by
    rw [List.length_take, List.length_drop]
    omega
  refine ⟨⟨((tx.drop 1).take 8).toArray, haddr⟩, ?_⟩
  have h9 : tx.drop 9 = tx.getD 9 0 :: tx.drop 10 := by
    rw [List.getD_eq_getElem _ _ (by omega), ← List.drop_eq_getElem_cons]
  calc tx = tx.take 1 ++ ((tx.drop 1).take 8 ++ tx.drop 9) := by
        rw [← List.drop_drop (i := 8) (j := 1), List.take_append_drop, List.take_append_drop]
    _ = frameBytes cfg _ [tx.getD 9 0] (tx.drop 10) := by
        rw [h9, List.take_one, hh]
        simp [frameBytes, Vector.toList]

/-- A byte string that decodes is what a wire command with well-typed operands writes (R82, R84, R88). -/
theorem decodeWire_ok {cfg : Cfg} {tx : List Byte} {ms : Nat} {i : Instr}
    (h : decodeWire cfg tx ms = .ok i) : i.wf = true ∧
      ∃ addr ms', WaitBeside i ms ms' ∧ wireBytes cfg addr i = some (tx, ms') := by
  unfold decodeWire at h
  split at h
  · split at h <;> cases h
    subst_vars
    exact ⟨rfl, Vector.replicate 8 0, 0, .inr (by simp), rfl⟩
  · split at h
    · cases h
    · split at h
      · cases h
      · rename_i hl hh
        obtain ⟨addr, htx⟩ := exists_frameBytes (Nat.le_of_not_lt hl) (not_not.1 hh)
        obtain ⟨hwf, ms', hms, hb⟩ := wireRow_ok h
        exact ⟨hwf, addr, ms', hms, htx ▸ hb addr⟩

/-- What the encoder writes for a wire command. -/
theorem encode_of_wireBytes {cfg : Cfg} {addr : Addr} {i : Instr} {tx : List Byte} {ms : Nat}
    (h : wireBytes cfg addr i = some (tx, ms)) : encode cfg addr i = .wire tx ms := by
  simp only [encode, hostWord_of_wireBytes h, h]

/-! ### Host words that select no operation -/

/-- The numbers of R89 that have no row (R90 a). -/
theorem hostRow_unusedCode {n : Nat} {p : Ports} :
    hostRow n p = .error .unusedCode ↔ n = 0 ∨ 0x19 ≤ n := by
  unfold hostRow
  split
  case h_15 => split <;> simp [checkTyped_error]
  case h_25 => grind
  all_goals simp [checkTyped_error]

/-- The rows whose operands can be outside their types, and how (R90 b). -/
theorem hostRow_operandType {n : Nat} {p : Ports} : hostRow n p = .error .operandType ↔
    (n = 0x02 ∧ 2 ^ 32 ≤ p.ms) ∨ (n = 0x03 ∧ 2 ^ 32 ≤ p.ms) ∨ (n = 0x0A ∧ p.header.length ≠ 8) ∨
    (n = 0x0C ∧ p.bytes.length ≠ 4) ∨ (n = 0x0F ∧ p.dir = none) ∨
    (n = 0x10 ∧ (p.cmdbytes = [] ∨ 121 < p.cmdbytes.length ∨ (p.rel.length ≠ 2 ∧ p.rel.length ≠ 3))) ∨
    (n = 0x14 ∧ p.h.length ≠ 8) ∨ (n = 0x16 ∧ (p.d = [] ∨ 120 < p.d.length)) ∨
    (n = 0x17 ∧ 120 < p.n) := by
  unfold hostRow
  split
  case h_15 => split <;> simp_all [checkTyped_error, Instr.wf]
  case h_25 => simp_all
  all_goals
    simp only [checkTyped_error, true_and, ← Bool.not_eq_true, Instr.wf, msFits, headerFits, statusFits,
      dataFits, countFits, cmdFits, relFits, Bool.and_eq_true, Bool.or_eq_true, decide_eq_true_eq]
    simp [Const.headerSize, Const.statusLen, Const.maxBlock, ← List.length_eq_zero_iff]
  all_goals omega

/-- The row of a number does not look at the reserved bits. -/
theorem hostRow_ne_reservedBits {n : Nat} {p : Ports} : hostRow n p ≠ .error .reservedBits := by
  unfold hostRow
  split
  case h_15 => split <;> simp [checkTyped_error]
  all_goals simp [checkTyped_error]

/-- Settles O5: a reserved bit refuses the word before its row is read; then the row decides. -/
theorem wordsThatSelectNoOperation : Obligations.WordsThatSelectNoOperation := by
  unfold Obligations.WordsThatSelectNoOperation
  rintro ⟨op, p⟩
  by_cases h : opHigh op = 0
  · simp only [decodeHost_row h, hostRow_unusedCode, hostRow_operandType, hostRow_ne_reservedBits, h, ne_eq,
      not_true_eq_false, true_and, iff_self, and_self]
  · have hr : decodeHost ⟨op, p⟩ = .error .reservedBits := if_pos h
    simp only [hr, h, Except.error.injEq, reduceCtorEq, false_and, ne_eq, not_false_eq_true, iff_self,
      and_self]

/-- Settles O2: each row of the two tables types what it gives. -/
theorem decodeGivesWellFormed : Obligations.DecodeGivesWellFormed := by
  unfold Obligations.DecodeGivesWellFormed
  intro cfg e i h
  cases e with
  | host w => exact (decodeHost_ok h).2
  | wire tx ms => exact (decodeWire_ok h).1
  | internal =>
    cases h
    rfl

/-- Settles O3: the number of a row is the code of its operation, and a frame to the address it holds is
written as it was read. -/
theorem wordsHaveOneMeaning : Obligations.WordsHaveOneMeaning := by
  unfold Obligations.WordsHaveOneMeaning
  refine ⟨fun w i h => (decodeHost_ok h).1, fun cfg tx ms i h => ?_⟩
  obtain ⟨-, addr, ms', hms, hb⟩ := decodeWire_ok h
  exact ⟨addr, ms', encode_of_wireBytes hb, hms⟩

/-- Settles O4: host words by evaluation; the two strings on the bus are what the encoder writes. -/
theorem sampleWordsDecode : Obligations.SampleWordsDecode := by
  unfold Obligations.SampleWordsDecode
  refine ⟨rfl, rfl, rfl, rfl, fun cfg hc => ?_, fun cfg hc => ?_⟩
  · exact decodeEncodeRoundTrip cfg #v[0x96, 0x11, 0x22, 0x33, 0x44, 0x55, 0x66, 0x7A]
      (.wireWriteStatus 4) hc rfl
  · exact decodeEncodeRoundTrip cfg (Vector.replicate 8 0) .wireReadStatus hc rfl

/-! ### Operands outside their types -/

section
variable {i : Instr} (h : i.wf = false) (s : State)
include h

theorem issueAtOnce_illegal (effect : State → State) :
    issueAtOnce i s effect = .next (illegalOp s) := by simp [issueAtOnce, h]

theorem issueLocked_illegal (start : State → State) :
    issueLocked i s start = .next (illegalOp s) := by simp [issueLocked, h]

theorem issueInside_illegal (start : State → State) :
    issueInside i s start = .next (illegalOp s) := by simp [issueInside, h]

/-- Each shape of an operation tests its operand before anything else (R90 b, R254). -/
theorem exec_illegal : exec i s = .next (illegalOp s) := by
  cases i with
  | setbase | setincr =>
    unfold exec execSetbase execSetincr
    exact issueAtOnce_illegal h s _
  | decodestatus => exact issueAtOnce_illegal h s _
  | acceptblock | exchange | writeheader | writedata | readdata =>
    exact (exec_locked rfl s).trans (issueLocked_illegal h s _)
  | wireWriteHeader | wireWriteData | wireReadData =>
    exact (exec_inside rfl s).trans (issueInside_illegal h s _)
  | _ => cases h

end

/-- Settles O6: the port refuses the word, and every shape of an operation its operand, before `LOCK` is
looked at. -/
theorem illegalOperationsChangeNothing : Obligations.IllegalOperationsChangeNothing := by
  unfold Obligations.IllegalOperationsChangeNothing
  refine ⟨fun s w rest e hh hd => ?_, fun s i h => exec_illegal h s⟩
  simp only [step, hh, serve, hd]
  rfl

/-! ### Wire commands -/

/-- An operation that ends with the status bit of its exchange. -/
theorem endOp_answered (o : Owner) (result : Result) (x : Exch) (r : Reply) (k : ExchCaller) (s : State)
    (rest : List Answer) :
    { endOp o result (answered r k (exchangeStarted x k s)) with answers := rest }
      = { afterExchange s x r result rest with phase := .idle, lock := lockAfter o s.lock } := by
  simp [endOp, afterExchange, answered, exchangeStarted, exchangeEvents, frameOut_eq, frameSent]

/-- A wire command that is a frame is one exchange, whose replies are its result; `LOCK` plays no part
(log 15, log 16). -/
theorem completesAs_wire {i : Instr} {s : State} {x : Exch} (hi : insideOf i = true) (hwf : i.wf = true)
    (hp : s.phase = .idle) (hx : startOf i s = exchangeStarted x .wire s) :
    CompletesAs i s x (bothReplies x) := by
  intro r rest ha hr hb
  have hans : (exchangeStarted x .wire s).answers = exchangeAnswers x r ++ rest := ha
  have hbit : r.bit ≠ (answered r .wire (exchangeStarted x .wire s)).cfg.notUnderstoodBit := hb
  have hvalue : exchangeReturn .wire (answered r .wire (exchangeStarted x .wire s))
      = endOp .caller (.ok (bothReplies x r.rx)) (answered r .wire (exchangeStarted x .wire s)) := rfl
  rw [exec_inside hi, issueInside_idle hwf hp, hx, resume_eq hans, drive_exchangeStarted _ _ _ _ hr,
    sampled_understood hbit, hvalue, drive_idle rfl, endOp_answered]
  simp [afterExchange, hp, lockAfter]

/-- Settles O32: each is begun as the exchange of its frame. -/
theorem wireCommandsExchangeTheirFrames : Obligations.WireCommandsExchangeTheirFrames := by
  unfold Obligations.WireCommandsExchangeTheirFrames
  intro s hp
  refine ⟨fun h hh => ?_, completesAs_wire rfl rfl hp (startExchange_eq ..), fun d h1 hm => ?_,
    fun n hn => ?_, fun ms => completesAs_wire rfl rfl hp (startExchange_eq ..),
    fun ms => completesAs_wire rfl rfl hp (startExchange_eq ..),
    completesAs_wire rfl rfl hp (startExchange_eq ..),
    fun c => completesAs_wire rfl rfl hp (startExchange_eq ..)⟩
  · exact completesAs_wire rfl (decide_eq_true hh) hp (startExchange_eq ..)
  · have hwf : (Instr.wireWriteData d).wf = true := by
      simp [Instr.wf, dataFits, Const.maxBlock, h1, hm]
    exact completesAs_wire rfl hwf hp (startExchange_eq ..)
  · exact completesAs_wire rfl (decide_eq_true hn) hp (startExchange_eq ..)

/-- Settles O33: the one answer ends the operation with its result. -/
theorem wireReadStatusExchange : Obligations.WireReadStatusExchange := by
  unfold Obligations.WireReadStatusExchange
  intro s rest hp
  have ends : ∀ {a t r u}, s.answers = a :: rest → Fed { s with phase := .statusBlock .wire } a t →
      t = endOp .caller r u →
      exec .wireReadStatus s = .next { endOp .caller r u with answers := rest } := by
    rintro a t r u ha hf rfl
    rw [exec_inside rfl, issueInside_idle rfl hp]
    exact (resume_eq (s := { s with phase := .statusBlock .wire }) ha).trans
      ((drive_cons (by simp) hf.feed).trans (drive_idle rfl rest))
  refine ⟨fun rx ha hg => ?_, fun rx ha hl hg => ?_, fun ha => ?_⟩
  · rw [ends ha (.status rfl hg.1) (statusAnswered_good .wire (s := emit _ _) hg)]
    simp [endOp, hp, lockAfter, emit, snapshotOf, statusFrame, allOnes]
  · rw [ends ha (.status rfl hl) (statusAnswered_bad .wire (s := emit _ _) hl hg)]
    simp [endOp, hp, lockAfter, emit, statusFrame, allOnes]
  · rw [ends ha (.statusFail rfl) rfl]
    simp [endOp, hp, lockAfter, emit, statusFrame, allOnes, ErrCode.plain]

/-! ### The events that a move makes -/

/-- The record of `t` is `base` and then events of a kind (R69). -/
def Extends (P : Event → Prop) (t : State) (base : List Event) : Prop :=
  ∃ es, t.trace = base ++ es ∧ ∀ e ∈ es, P e

/-- The events that the block makes of itself between two answers: the warning of R201, the reset of
R183, the renegotiation of R236. -/
def Event.Own : Event → Prop
  | .warn _ | .busReset | .renegotiateSpeed => True
  | _ => False

section
variable {P Q : Event → Prop} {s t : State} {base : List Event}

theorem Extends.same (h : t.trace = base := by rfl) : Extends P t base :=
  ⟨[], by simp [h], by simp⟩

theorem Extends.trans (h : Extends P s base) (k : Extends P t s.trace) : Extends P t base := by
  obtain ⟨ds, hd, hP⟩ := h
  obtain ⟨es, he, hP'⟩ := k
  refine ⟨ds ++ es, by rw [he, hd, List.append_assoc], fun e hm => ?_⟩
  exact (List.mem_append.1 hm).elim (hP e) (hP' e)

theorem Extends.mono (h : Extends P t base) (hPQ : ∀ e, P e → Q e) : Extends Q t base := by
  obtain ⟨es, he, hP⟩ := h
  exact ⟨es, he, fun e hm => hPQ e (hP e hm)⟩

end

section
variable (s : State)

theorem startExchange_own (c rel : List Byte) (p : Bool) (ms : Nat) (k : ExchCaller) :
    Extends Event.Own (startExchange c rel p ms k s) s.trace := by
  refine ⟨firstByteWarning s, rfl, ?_⟩
  unfold firstByteWarning
  split <;> simp [Event.Own]

theorem startPorRecover_own (p : PorCaller) : Extends Event.Own (startPorRecover p s) s.trace :=
  .trans (s := emit [.busReset] s) ⟨_, rfl, by simp [Event.Own]⟩ (startExchange_own ..)

theorem startAttempt_own : Extends Event.Own (startAttempt s) s.trace := by
  rw [startAttempt_eq]
  split <;> exact .same

/-- Step 6 renegotiates before the next attempt (R236). -/
theorem transferFail_own (e : Error) : Extends Event.Own (transferFail e s) s.trace := by
  have bump : Extends Event.Own (transferBump { s with lastErr := some e }) s.trace :=
    ⟨[.renegotiateSpeed], rfl, by simp [Event.Own]⟩
  unfold transferFail
  split
  · exact .same
  · split
    · exact bump
    · exact bump.trans (startAttempt_own _)

theorem raise_own (o : Owner) (e : Error) : Extends Event.Own (raise o e s) s.trace := by
  cases o
  · exact .same
  · exact transferFail_own ..
  · exact .same

theorem pollNext_own (c : PollCaller) : Extends Event.Own (pollNext c s) s.trace := by
  unfold pollNext
  split
  · exact raise_own ..
  · exact .same

theorem pollReturn_own (c : PollCaller) : Extends Event.Own (pollReturn c s) s.trace := by
  cases c
  · exact .same
  · simp only [pollReturn, orRaise]
    cases h : nextHeader s with
    | error e => exact raise_own ..
    | ok p =>
      obtain ⟨header, t⟩ := p
      obtain ⟨-, -, -, rfl⟩ := nextHeader_ok s h
      exact startExchange_own ..
  · exact startExchange_own ..

theorem pollAct_own (c : PollCaller) (a : Arm) : Extends Event.Own (pollAct c a s) s.trace := by
  cases a
  case porRecover => exact startPorRecover_own ..
  case succeed => exact pollReturn_own ..
  case fail => exact raise_own ..
  all_goals exact startExchange_own ..

theorem pollDecide_own (c : PollCaller) : Extends Event.Own (pollDecide c s) s.trace := by
  obtain ⟨n, -, he⟩ := pollCount_eq s
  unfold pollDecide
  rw [he]
  exact pollAct_own ..

theorem statusAnswered_own (c : StatusCaller) (rx : List Byte) :
    Extends Event.Own (statusAnswered c rx s) s.trace := by
  unfold statusAnswered
  dsimp only
  split
  · cases c
    · exact .same
    · exact .same
    · exact pollDecide_own ..
  · exact raise_own ..

theorem headerRead_own (h : List Byte) : Extends Event.Own (headerRead h s) s.trace := by
  unfold headerRead
  split
  · exact raise_own ..
  · exact startExchange_own ..

theorem dataRead_own (h d : List Byte) : Extends Event.Own (dataRead h d s) s.trace := by
  unfold dataRead
  simp only [orRaise]
  cases ha : acceptBlock h d s.snap s with
  | error e => exact raise_own ..
  | ok p =>
    obtain ⟨done, t⟩ := p
    obtain ⟨-, -, -, -, rfl⟩ := acceptBlock_ok s ha
    dsimp only
    split
    · split
      · exact .same
      · exact raise_own ..
    · exact startExchange_own ..

theorem exchangeReturn_own (k : ExchCaller) : Extends Event.Own (exchangeReturn k s) s.trace := by
  cases k with
  | host | wire | tRRun => exact .same
  | pollWrite | porWrite | tSData | tSWs | tRWs => exact startExchange_own ..
  | pollRun | pollBump => exact pollNext_own ..
  | porRun p =>
    cases p
    · exact .same
    · exact pollNext_own ..
  | tSHdr =>
    simp only [exchangeReturn, orRaise]
    cases nextData s
    · exact raise_own ..
    · exact startExchange_own ..
  | tSRun =>
    simp only [exchangeReturn]
    split <;> exact .same
  | tRHdr => exact headerRead_own ..
  | tRData h => exact dataRead_own ..

theorem sampled_own (k : ExchCaller) (b : Bool) : Extends Event.Own (sampled k b s) s.trace := by
  unfold sampled
  split
  · exact raise_own ..
  · exact exchangeReturn_own ..

/-- Before its first answer an operation makes no other events. -/
theorem startOf_own (i : Instr) : Extends Event.Own (startOf i s) s.trace := by
  have ended : ∀ {α : Type} (r : Except Error α) (ok : α → Value × State),
      (∀ a, r = .ok a → (ok a).2.trace = s.trace) → Extends Event.Own (endWith r s ok) s.trace := by
    intro α r ok h
    cases r with
    | error e => exact .same
    | ok a => exact .same (h a rfl)
  cases i with
  | fraginit payload =>
    simp only [startOf]
    obtain ⟨-, h⟩ | ⟨-, h⟩ := fragInit_cases s payload <;>
    · rw [h]
      exact .same
  | nextheader =>
    refine ended _ _ fun a ha => ?_
    obtain ⟨-, -, -, ht⟩ := nextHeader_ok s ha
    simp [ht]
  | acceptblock =>
    refine ended _ _ fun a ha => ?_
    obtain ⟨-, -, -, -, ht⟩ := acceptBlock_ok s ha
    simp [ht]
  | nextdata | finish => exact ended _ _ fun _ _ => rfl
  | readstatus | wireReadStatus | poll | transfer => exact .same
  | tomillis | setbase | setincr | crc16 | correction | validate | decodestatus => exact .same
  | porrecover => exact startPorRecover_own ..
  | _ => exact startExchange_own ..

end

/-! ### What the bus carries -/

section
variable {s t : State}

/-- A frame with a command and a release code of their sizes has its marker and 12 to 133 bytes (R81). -/
theorem frameOut_busShape (h : FrameSized s.xCmd s.xRel) (rx : Option (List Byte)) :
    BusShape s.cfg (.dataBlock (frameOut s) rx) := by
  obtain ⟨hc, hc', hr, hr'⟩ := h
  refine .inr ⟨rfl, ?_⟩
  rw [frameOut_length]
  simp only [Const.maxBlock] at hc'
  omega

/-- The block's own events are no `DataBlock`. -/
theorem Event.Own.busShape {cfg : Cfg} {e : Event} (h : e.Own) : BusShape cfg e := by
  cases e with
  | dataBlock => cases h
  | _ => trivial

/-- The event of a call and then events of the block's own. -/
theorem Extends.busShape {es : List Event} (hes : ∀ e ∈ es, BusShape s.cfg e)
    (h : Extends Event.Own t (emit es s).trace) : Extends (BusShape s.cfg) t s.trace :=
  .trans (s := emit es s) ⟨es, rfl, hes⟩ (h.mono fun _ => Event.Own.busShape)

/-- What taking an answer puts on the bus. -/
theorem Fed.busShape {a : Answer} (hf : Fed s a t) (h : Inv s) :
    Extends (BusShape s.cfg) t s.trace := by
  have frame : ∀ {k}, s.phase.exchange = some k → ∀ rx, BusShape s.cfg (.dataBlock (frameOut s) rx) :=
    fun hk => frameOut_busShape (h.frame _ hk)
  cases hf with
  | @speed _ sp hp =>
    cases sp
    · exact .busShape (es := [.speedGet .regular]) (by simp [BusShape]) .same
    · exact .busShape (es := [.speedGet .overdrive]) (by simp [BusShape]) (startAttempt_own _)
  | @select _ ok hp => cases ok <;> exact ⟨_, rfl, by simp [BusShape]⟩
  | @selectAgain _ ok hp =>
    cases ok
    · exact .busShape (by simp [BusShape]) (raise_own ..)
    · exact ⟨_, rfl, by simp [BusShape]⟩
  | status hp => exact .busShape (by simp [BusShape]) (statusAnswered_own ..)
  | statusFail hp => exact .busShape (by simp [BusShape]) (raise_own ..)
  | @block k _ hp =>
    have hk : s.phase.exchange = some k := by obtain hp | hp := hp <;> rw [hp] <;> rfl
    exact ⟨_, rfl, List.forall_mem_singleton.2 (frame hk _)⟩
  | @blockFail k hp =>
    have hk : s.phase.exchange = some k := by rw [hp]; rfl
    exact ⟨_, rfl, List.forall_mem_cons.2 ⟨frame hk _, by simp [BusShape]⟩⟩
  | @retryFail k hp =>
    have hk : s.phase.exchange = some k := by rw [hp]; rfl
    exact .busShape (List.forall_mem_singleton.2 (frame hk _)) (raise_own ..)
  | smart hp => exact ⟨_, rfl, by simp [BusShape]⟩
  | powerBit hp | bit hp => exact .busShape (by simp [BusShape]) (sampled_own ..)

/-- What a run on answers from `s` keeps: the invariant, and a record of frames and status exchanges. -/
structure OnBus (s u : State) : Prop where
  inv : Inv u
  cfg : u.cfg = s.cfg
  sent : Extends (BusShape s.cfg) u s.trace

/-- What a run on answers puts on the bus. -/
theorem resume_busShape (h : Inv s) (hr : resume s = .next t) :
    Extends (BusShape s.cfg) t s.trace := by
  have begins : OnBus s s := ⟨h, rfl, .same⟩
  refine (drive_keeps (P := OnBus s) (fun a u v hu hi hf => ?_) (fun u l hu => ?_) _ s t begins hr).sent
  · have hfed := feed_fed hi hf
    exact ⟨hfed.inv hi hu.inv, (feed_advances hf).cfg.trans hu.cfg,
      hu.sent.trans (hu.cfg ▸ hfed.busShape hu.inv)⟩
  · exact ⟨hu.inv.setPorts _ l _ _, hu.cfg, hu.sent⟩

/-- An operation that takes `LOCK` begins with the invariant. -/
theorem startOf_inv {i : Instr} (hl : locks i = true) (hwf : i.wf = true) (h : Inv s) :
    Inv (startOf i (begun i s)) := by
  have hbegun : begun i s = { s with lock := true } := by simp [begun, hl]
  obtain ⟨o, ho, hc⟩ := startOf_continues hl { s with lock := true }
  rw [hbegun]
  exact hc.inv ho (startOf_sound hl hwf h.sound.regs.congr)

/-- What an operation of the host's puts on the bus. -/
theorem Executed.busShape {i : Instr} (hx : Executed i s t) (hi : insideOf i = false) (h : Inv s) :
    Extends (BusShape s.cfg) t s.trace := by
  cases hx with
  | gave | held => exact .same
  | ran hk hwf hp _ hr =>
    have hl : locks i = true := hk.resolve_right (by simp [hi])
    have hcfg : (startOf i (begun i s)).cfg = s.cfg := (startOf_sameConfig i (begun i s)).cfg
    exact ((startOf_own (begun i s) i).mono fun _ => Event.Own.busShape).trans
      (hcfg ▸ resume_busShape (startOf_inv hl hwf h) hr)

end

/-- Settles O60: between two answers the block makes events of its own only, and the invariant bounds the
frame of every exchange whose `DataBlock` is answered. -/
theorem busCarriesFramesOnly : Obligations.BusCarriesFramesOnly := by
  unfold Obligations.BusCarriesFramesOnly
  intro s s' h hs
  cases step_stepped hs with
  | resumed hr => exact resume_busShape h hr
  | wasReset | refused => exact Extends.same
  | executed _ hd he =>
    exact he.busShape (decodeHost_not_inside hd) (h.setPorts _ s.answers s.trace s.result)

end Sys2Proof.Machine

/-! SUPPORT. Proofs of the family 40_timing: the arithmetic of the waits, and the three operations at once
that read and set the tunables. -/

namespace Sys2Proof.Machine

/-! ### The arithmetic of the waits (R120, R123) -/

/-- `ToMillis` of a code operand is the wait of the clamped code. -/
theorem toMillis_clamp15 (s : State) (c : Int) : toMillis s (clamp15 c) = waitOf s (clamped c) := by
  rw [toMillis, millis, clamp15_val]
  rfl

theorem clamped_le (c : Int) : clamped c ≤ 15 := by
  unfold clamped
  omega

theorem clamped_mono {c d : Int} (h : c ≤ d) : clamped c ≤ clamped d := by
  unfold clamped
  omega

/-- A wait does not fall when the code or a tunable grows. -/
theorem waitOf_mono {s t : State} {m n : Nat} (hb : s.tBase ≤ t.tBase) (hi : s.tIncr ≤ t.tIncr)
    (h : m ≤ n) : waitOf s m ≤ waitOf t n :=
  Nat.add_le_add (Nat.mul_le_mul h (BitVec.le_def.1 hi)) (BitVec.le_def.1 hb)

/-- Fifteen increments and a base are sixteen words of 32 bits at the most. -/
theorem waitOf_lt (s : State) {n : Nat} (h : n ≤ 15) : waitOf s n < 16 * 2 ^ 32 := by
  have hincr : n * s.tIncr.toNat ≤ 15 * 2 ^ 32 := Nat.mul_le_mul h s.tIncr.isLt.le
  have hbase : s.tBase.toNat < 2 ^ 32 := s.tBase.isLt
  unfold waitOf
  omega

/-- Legal tunables give every wait its least value (R21). -/
theorem Inv.le_waitOf {s : State} (h : Inv s) (n : Nat) : 63 + 250 * n ≤ waitOf s n := by
  have hincr : n * 250 ≤ n * s.tIncr.toNat := Nat.mul_le_mul_left n h.increment
  have hbase : 63 ≤ s.tBase.toNat := h.base
  unfold waitOf
  omega

/-! ### Operations at once -/

/-- An operation at once with a legal operand has its effect (R89). -/
theorem issueAtOnce_legal {i : Instr} (h : i.wf = true) (s : State) (effect : State → State) :
    issueAtOnce i s effect = .next (effect s) := by simp [issueAtOnce, h]

theorem exec_tomillis (code : Int) (s : State) :
    exec (.tomillis code) s = .next (giveResult (.ok (.ms (toMillis s (clamp15 code)))) s) := rfl

/-- A request without a lock is executed whatever its operand and whatever is under way: the port and the
operation refuse an operand outside its type alike (R71, R90 b). -/
theorem step_unlocked {s : State} {w : HostWord} {rest : List Request} {i : Instr}
    (hh : s.host = .op w :: rest) (hd : decodeHost w = checkTyped i) (hl : locks i = false) :
    step s = exec i { s with host := rest } := by
  cases hwf : i.wf with
  | true => exact step_serves hh (hd.trans (checkTyped_ok.2 ⟨rfl, hwf⟩)) (.inl hl)
  | false =>
    have hrefused : decodeHost w = .error .operandType := hd.trans (checkTyped_error.2 ⟨rfl, hwf⟩)
    rw [exec_illegal hwf]
    exact illegalOperationsChangeNothing.1 s w rest _ hh hrefused

/-! ### The setters (R121, R122): one 32-bit operand with a least legal value -/

/-- The effect of a setter: below the least value `RANGE` and nothing else, else the operand is stored. -/
def setOrRefuse (least : Nat) (info : Info) (store : BitVec 32 → State → State) (ms : Nat) (s : State) :
    State :=
  if ms < least then giveResult (.err ⟨.range, info⟩) s
  else giveResult (.ok .none) (store (BitVec.ofNat 32 ms) s)

theorem exec_setbase (ms : Nat) (s : State) : exec (.setbase ms) s =
    issueAtOnce (.setbase ms) s (setOrRefuse 63 .base (fun v s => { s with tBase := v }) ms) := rfl

theorem exec_setincr (ms : Nat) (s : State) : exec (.setincr ms) s =
    issueAtOnce (.setincr ms) s (setOrRefuse 250 .increment (fun v s => { s with tIncr := v }) ms) := rfl

section
variable {i : Instr} {ms least : Nat}

theorem checkTyped_ms (hwf : i.wf = msFits ms) :
    checkTyped i = if ms < 2 ^ 32 then .ok i else .error .operandType := by
  simp [checkTyped, hwf, msFits]

theorem exec_ms_illegal (hwf : i.wf = msFits ms) (h : 2 ^ 32 ≤ ms) (s : State) :
    exec i s = .next (illegalOp s) :=
  exec_illegal (hwf.trans (decide_eq_false h.not_gt)) s

theorem issueAtOnce_setOrRefuse_of_lt (hwf : i.wf = msFits ms) (h : ms < least) (hl : least ≤ 2 ^ 32)
    (info : Info) (store : BitVec 32 → State → State) (s : State) :
    issueAtOnce i s (setOrRefuse least info store ms) = .next (giveResult (.err ⟨.range, info⟩) s) := by
  rw [issueAtOnce_legal (hwf.trans (decide_eq_true (h.trans_le hl))), setOrRefuse, if_pos h]

theorem issueAtOnce_setOrRefuse_of_le {v : BitVec 32} (hwf : i.wf = msFits v.toNat)
    (h : least ≤ v.toNat) (info : Info) (store : BitVec 32 → State → State) (s : State) :
    issueAtOnce i s (setOrRefuse least info store v.toNat)
      = .next (giveResult (.ok .none) (store v s)) := by
  rw [issueAtOnce_legal (hwf.trans (decide_eq_true v.isLt)), setOrRefuse, if_neg h.not_gt,
    BitVec.ofNat_toNat, BitVec.setWidth_eq]

end

/-! ### The obligations of 40_timing -/

/-- Settles O9: the result is the wait of the clamped code, which is at most 15. -/
theorem tomillisGivesTheWait : Obligations.TomillisGivesTheWait := by
  unfold Obligations.TomillisGivesTheWait
  refine ⟨decodeHost_row rfl, fun s code => ⟨?_, waitOf_lt s (clamped_le code)⟩⟩
  rw [exec_tomillis, toMillis_clamp15]
  rfl

/-- Settles O10: the three ranges of a setter's operand, and a request that takes no lock. -/
theorem setbaseSetsOrRefuses : Obligations.SetbaseSetsOrRefuses := by
  unfold Obligations.SetbaseSetsOrRefuses
  have row : ∀ p : Ports, decodeHost ⟨0x02, p⟩ = checkTyped (.setbase p.ms) := decodeHost_row rfl
  refine ⟨fun p => (row p).trans (checkTyped_ms rfl), fun s ms h => exec_ms_illegal rfl h s,
    fun s ms h => ?below, fun s v h => ⟨?takes, fun c => rfl⟩,
    fun s p rest hh => step_unlocked hh (row p) rfl⟩
  case below => exact (exec_setbase ms s).trans (issueAtOnce_setOrRefuse_of_lt rfl h (by decide) ..)
  case takes => exact (exec_setbase v.toNat s).trans (issueAtOnce_setOrRefuse_of_le rfl h ..)

/-- Settles O11: as O10, with the other tunable and its least value. -/
theorem setincrSetsOrRefuses : Obligations.SetincrSetsOrRefuses := by
  unfold Obligations.SetincrSetsOrRefuses
  have row : ∀ p : Ports, decodeHost ⟨0x03, p⟩ = checkTyped (.setincr p.ms) := decodeHost_row rfl
  refine ⟨fun p => (row p).trans (checkTyped_ms rfl), fun s ms h => exec_ms_illegal rfl h s,
    fun s ms h => ?below, fun s v h => ⟨?takes, fun c => rfl⟩,
    fun s p rest hh => step_unlocked hh (row p) rfl⟩
  case below => exact (exec_setincr ms s).trans (issueAtOnce_setOrRefuse_of_lt rfl h (by decide) ..)
  case takes => exact (exec_setincr v.toNat s).trans (issueAtOnce_setOrRefuse_of_le rfl h ..)

/-- Settles O12: the clamp and the wait are monotone, and the invariant bounds both tunables. -/
theorem waitsAreMonotoneAndBounded : Obligations.WaitsAreMonotoneAndBounded := by
  unfold Obligations.WaitsAreMonotoneAndBounded
  refine ⟨fun c => ?_, fun s t c d hb hi hc => ?_, fun s c h => ?_⟩
  · apply Fin.ext
    simp only [clamp15_val]
    omega
  · simp only [toMillis_clamp15]
    exact waitOf_mono hb hi (clamped_mono hc)
  · rw [toMillis_clamp15]
    exact h.le_waitOf (clamped c)

end Sys2Proof.Machine

/-! SUPPORT. Proofs of the family 41_crc_compensator: the shift register is linear and injective, a half
word that is fed to it low byte first is sixteen shifts, and the correction table is an iteration of the
step from an entry to the next. -/

namespace Sys2Proof.Machine

/-! ### The shift register (R130) -/

theorem crcShifts_eq_iterate (n : Nat) (c : Half) : crcShifts n c = crcShift^[n] c := by
  induction n generalizing c with
  | zero => rfl
  | succ n ih => exact ih (crcShift c)

@[simp] theorem crcShifts_zero (n : Nat) : crcShifts n 0 = 0 := by
  rw [crcShifts_eq_iterate]
  exact Function.iterate_fixed (by decide) n

/-- A shift that drops a one sets the top bit, so only zero is shifted to zero. -/
theorem eq_zero_of_crcShift_eq_zero {c : Half} (h : crcShift c = 0) : c = 0 := by
  unfold crcShift at h
  split at h
  case isTrue =>
    have hc : c >>> 1 = 0xA001 := BitVec.xor_eq_zero_iff.1 h
    bv_omega
  case isFalse hb =>
    have heven : c.toNat % 2 ≠ 1 := by simpa [BitVec.getLsbD, Nat.testBit_zero] using hb
    bv_omega

/-- The kernel of the linear shift is zero. -/
theorem crcShift_injective : Function.Injective crcShift := fun a b h =>
  BitVec.xor_eq_zero_iff.1 <| eq_zero_of_crcShift_eq_zero <| by
    rw [crcShift_xor, h]
    exact BitVec.xor_self

theorem crcShifts_injective (n : Nat) : Function.Injective (crcShifts n) := by
  rw [funext (crcShifts_eq_iterate n)]
  exact crcShift_injective.iterate n

/-- A byte that stands above the low end of the register moves down by one place. -/
theorem crcShift_shiftLeft_succ (b : Byte) {n : Nat} (h : n < 8) :
    crcShift (b.setWidth 16 <<< (n + 1)) = b.setWidth 16 <<< n := by
  rw [crcShift, if_neg (by simp)]
  ext i hi
  simp only [BitVec.getElem_ushiftRight, BitVec.getLsbD_shiftLeft, BitVec.getLsbD_setWidth,
    BitVec.getElem_shiftLeft, BitVec.getElem_setWidth]
  grind

/-- The high byte reaches the low end of the register in eight shifts, none of which drops a one. -/
theorem crcShifts_shiftLeft (b : Byte) {n : Nat} (h : n ≤ 8) :
    crcShifts n (b.setWidth 16 <<< n) = b.setWidth 16 := by
  induction n with
  | zero => exact BitVec.shiftLeft_zero _
  | succ n ih => rw [crcShifts, crcShift_shiftLeft_succ b h, ih (Nat.le_of_succ_le h)]

/-- A half word is its low byte and its high byte (R8). -/
theorem low_xor_high (v : Half) :
    (v.extractLsb' 0 8).setWidth 16 ^^^ (v.extractLsb' 8 8).setWidth 16 <<< 8 = v := by
  ext i hi
  simp only [BitVec.getElem_xor, BitVec.getElem_shiftLeft, BitVec.getElem_setWidth,
    BitVec.getLsbD_extractLsb']
  grind

/-- Feeding a half word low byte first is sixteen shifts of its exclusive or with the register. -/
theorem crcOneWire_le16 (c v : Half) : crcOneWire c (le16 v) = crcShifts 16 (c ^^^ v) := by
  let low : Half := (v.extractLsb' 0 8).setWidth 16
  let high : Half := (v.extractLsb' 8 8).setWidth 16
  calc crcOneWire c (le16 v)
      = crcShifts 8 (crcShifts 8 (c ^^^ low) ^^^ high) := rfl
    _ = crcShifts 8 (crcShifts 8 (c ^^^ low) ^^^ crcShifts 8 (high <<< 8)) := by
      rw [crcShifts_shiftLeft _ le_rfl]
    _ = crcShifts 16 (c ^^^ (low ^^^ high <<< 8)) := by
      rw [← crcShifts_xor, BitVec.xor_assoc, ← crcShifts_add]
    _ = crcShifts 16 (c ^^^ v) := by rw [low_xor_high]

/-- The loop of R130 over one byte. -/
theorem foldl_range_crcShift (n : Nat) (c : Half) :
    (List.range n).foldl (fun c _ => crcShift c) c = crcShifts n c := by
  rw [List.foldl_const, List.length_range, crcShifts_eq_iterate]

/-- The CRC of byte strings of one length is linear (R130). -/
theorem crcOneWire_xor (s1 s2 : Half) {d1 d2 : List Byte} (h : d1.length = d2.length) :
    crcOneWire (s1 ^^^ s2) (List.zipWith (· ^^^ ·) d1 d2)
      = crcOneWire s1 d1 ^^^ crcOneWire s2 d2 := by
  induction d1 generalizing d2 s1 s2 with
  | nil =>
    rw [List.length_eq_zero_iff.1 h.symm]
    rfl
  | cons b d1 ih =>
    cases d2 with
    | nil => cases h
    | cons b' d2 =>
      simp only [List.zipWith_cons_cons, crcOneWire_cons, crcByte_xor]
      exact ih _ _ (Nat.succ.inj h)

section
variable {cfg : Cfg} (h : cfg.crcFn = .oneWire)
include h

theorem crc16_oneWire : crc16 cfg = crcOneWire := by
  funext seed data
  rw [crc16, h]

theorem goodResidual_oneWire : goodResidual cfg = crcShifts 16 cfg.crcFieldXor := by
  simp [goodResidual, crc16_oneWire h, crcOneWire_le16]

end

/-! ### The correction table (R132, R133) -/

/-- The entry after `v` (R132). -/
def nextEntry (cfg : Cfg) (v : Half) : Half := crc16 cfg 0 (tableFeedBytes cfg v)

theorem tableFrom_eq_iterate (cfg : Cfg) (n : Nat) (v : Half) :
    tableFrom cfg n v = List.iterate (nextEntry cfg) v (n + 1) := by
  induction n generalizing v with
  | zero => rfl
  | succ n ih => exact congrArg (v :: ·) (ih (nextEntry cfg v))

theorem corrTable_eq_iterate (cfg : Cfg) :
    corrTable cfg = List.iterate (nextEntry cfg) (crc16 cfg 0 [0x01]) 139 :=
  tableFrom_eq_iterate ..

theorem corrTable_getElem? (cfg : Cfg) {i : Nat} (h : i < 139) :
    (corrTable cfg)[i]? = some ((nextEntry cfg)^[i] (crc16 cfg 0 [0x01])) := by
  rw [corrTable_eq_iterate, List.getElem?_iterate _ _ _ _ h]

/-- With the defaults an entry is the one before it shifted sixteen times, from 0xC0C1 on. -/
theorem corrTable_defaults {cfg : Cfg} (h : cfg.crcFn = .oneWire) (hf : cfg.tableFeed = .le16) :
    corrTable cfg = List.iterate (crcShifts 16) 0xC0C1 139 := by
  have hnext : nextEntry cfg = crcShifts 16 := by
    funext v
    simp [nextEntry, tableFeedBytes, hf, crc16_oneWire h, crcOneWire_le16]
  have hfirst : crc16 cfg 0 [0x01] = 0xC0C1 := by
    rw [crc16_oneWire h]
    decide
  rw [corrTable_eq_iterate, hnext, hfirst]

/-- The last entry with the defaults (R132). The search for it forces the entries in their order, where
the evaluation of the last one alone would nest all shifts. -/
theorem iterate_last_entry : (List.iterate (crcShifts 16) 0xC0C1 139)[138]? = some 0xF585 := by
  have hidx : (List.iterate (crcShifts 16) 0xC0C1 139).idxOf 0xF585 = 138 := by decide +kernel
  rw [← hidx]
  exact List.getElem?_idxOf (List.idxOf_lt_length_iff.1 (by rw [hidx, List.length_iterate]; decide))

/-- The iteration of an injective function repeats no value before it comes back to its start. -/
theorem nodup_iterate {α : Type} {f : α → α} (hf : Function.Injective f) {a : α} {n : Nat}
    (h : a ∉ List.iterate f (f a) n) : (List.iterate f a (n + 1)).Nodup := by
  induction n with
  | zero => exact List.nodup_singleton a
  | succ n ih =>
    have hmap : List.iterate f (f a) (n + 1) = (List.iterate f a (n + 1)).map f := by
      simp only [← List.range_map_iterate, List.map_map, Function.comp_def,
        ← Function.iterate_succ_apply, Function.iterate_succ_apply']
    refine List.nodup_cons.2 ⟨h, hmap ▸ (ih fun hm => h ?_).map hf⟩
    rw [List.iterate_add]
    exact List.mem_append_left _ hm

theorem correction_entry (corr : List Half) {n : Nat} (h : n < 139) {v : Half}
    (hv : corr[n]? = some v) : correction corr ((n : Int) + 1) = v := by
  have hr : ¬ ((n : Int) + 1 < 1 ∨ (n : Int) + 1 > Const.tableLen) := by
    simp only [Const.tableLen]
    omega
  rw [correction, if_neg hr]
  simp [hv]

/-- A residual is accepted that is good plainly, or good after the correction (R134). -/
theorem accepts_iff (cfg : Cfg) (corr : List Half) (crc : Half) (length : Int) :
    accepts cfg corr crc length = true ↔
      crc = goodResidual cfg ∨ crc = goodResidual cfg ^^^ correction corr length := by
  have moved : ∀ v, crc ^^^ v = goodResidual cfg ↔ crc = goodResidual cfg ^^^ v := fun v => by
    rw [← BitVec.xor_left_inj (z := v), BitVec.xor_assoc, BitVec.xor_self, BitVec.xor_zero]
  simp [accepts, moved]

/-! ### The operations -/

theorem exec_crc16 (seed : Half) (data : List Byte) (s : State) :
    exec (.crc16 seed data) s = .next (giveResult (.ok (.half (crc16 s.cfg seed data))) s) := rfl

theorem exec_correction (length : Int) (s : State) :
    exec (.correction length) s = .next (giveResult (.ok (.half (correction s.corr length))) s) := rfl

theorem exec_validate (crc : Half) (length : Int) (s : State) :
    exec (.validate crc length) s = .next (giveResult
      (if crc = goodResidual s.cfg ∨ crc = goodResidual s.cfg ^^^ correction s.corr length
        then .ok .none else .err ⟨.crc, .none⟩) s) := by
  simp only [← accepts_iff]
  rfl

/-! ### The obligations of 41_crc_compensator -/

/-- Settles O13: the default function is a fold of eight linear shifts a byte. -/
theorem crc16IsTheShiftRegister : Obligations.Crc16IsTheShiftRegister := by
  unfold Obligations.Crc16IsTheShiftRegister
  refine ⟨decodeHost_row rfl, fun s seed data => exec_crc16 seed data s, fun cfg h => ?_⟩
  rw [crc16_oneWire h]
  refine ⟨crcOneWire_nil, fun seed b data => ?byte, crcOneWire_append,
    fun s1 s2 _ _ hd => crcOneWire_xor s1 s2 hd, fun seed => ?zeros,
    by decide, by decide, by decide +kernel, by decide +kernel⟩
  case byte => exact congrArg (crcOneWire · data) (foldl_range_crcShift 8 _).symm
  case zeros =>
    calc crcOneWire seed (le16 0)
        = crcOneWire 0 (le16 seed) := by rw [crcOneWire_le16, crcOneWire_le16, BitVec.xor_comm]
      _ = crcOneWire 0 [seed.setWidth 8, (seed >>> 8).setWidth 8] := by rw [le16_eq]

/-- Settles O14: the CRC of the data cancels against its own field, and the mask is what is shifted. -/
theorem ownCrcLeavesGoodResidual : Obligations.OwnCrcLeavesGoodResidual := by
  unfold Obligations.OwnCrcLeavesGoodResidual
  intro cfg h
  rw [goodResidual_oneWire h, crc16_oneWire h]
  refine ⟨fun seed data => ?_, fun hx => ?_, fun hx => ?_⟩
  · rw [← le16_eq, crcOneWire_append, crcOneWire_le16, ← BitVec.xor_assoc, BitVec.xor_self,
      BitVec.zero_xor]
  · rw [hx]
    decide +kernel
  · rw [hx, crcShifts_zero]

/-- Settles O15: the table is an iteration; with the defaults its step is injective and keeps zero, so
that the entries differ if the first does not come again. -/
theorem correctionTableRecurrence : Obligations.CorrectionTableRecurrence := by
  unfold Obligations.CorrectionTableRecurrence
  intro cfg
  refine ⟨corrTable_length cfg, corrTable_getElem? cfg (by decide), fun i v hi hv => ?next,
    fun h hf => ?defaults⟩
  case next =>
    rw [corrTable_getElem? cfg (by omega), Option.some_inj] at hv
    rw [corrTable_getElem? cfg (by omega), Function.iterate_succ_apply', hv, nextEntry,
      tableFeedBytes]
    cases cfg.tableFeed with
    | le16 => simp only [le16_eq]
    | be16 => simp only [be16_eq]
    | low8 => simp only [BitVec.setWidth_eq_extractLsb' (show 8 ≤ 16 by decide)]
  case defaults =>
    rw [corrTable_defaults h hf]
    refine ⟨?_, iterate_last_entry, nodup_iterate (crcShifts_injective 16) (by decide +kernel),
      fun hz => ?_⟩
    · rw [List.take_iterate]
      decide +kernel
    · obtain ⟨m, -, hm⟩ := List.mem_iterate.1 hz
      have hzero : (crcShifts 16)^[m] 0 = 0 := Function.iterate_fixed (crcShifts_zero 16) m
      exact absurd ((crcShifts_injective 16).iterate m (hm.symm.trans hzero.symm)) (by decide)

/-- Settles O16: inside 1 to 139 the correction is the entry, outside it is zero. -/
theorem correctionLooksUp : Obligations.CorrectionLooksUp := by
  unfold Obligations.CorrectionLooksUp
  refine ⟨decodeHost_row rfl, fun s length hl => ?_, fun s n v hn hv => ?_⟩
  · rw [exec_correction, correction_outside _ hl]
    rfl
  · rw [exec_correction, correction_entry _ hn hv]
    rfl

/-- Settles O17: the correction is the entry or zero, and zero leaves the plain residual. -/
theorem validateAcceptsTwoResiduals : Obligations.ValidateAcceptsTwoResiduals := by
  unfold Obligations.ValidateAcceptsTwoResiduals
  refine ⟨decodeHost_row rfl, fun s crc length => ⟨fun hg => ?plain, fun hl hg => ?outside,
    fun v h1 h2 hv => ?entry⟩⟩ <;> rw [exec_validate]
  case plain =>
    rw [if_pos (.inl hg)]
    rfl
  case outside =>
    simp [correction_outside _ hl, hg, giveResult]
  case entry =>
    have hlen : length = ((length.toNat - 1 : Nat) : Int) + 1 := by omega
    rw [hlen, correction_entry _ (by omega) hv]
    rfl

end Sys2Proof.Machine

/-! SUPPORT. Proofs of the family 42_fragmenter: each of its operations once, the blocks of a payload as
states of the send side, and how a transfer ends. -/

namespace Sys2Proof.Machine

/-! ### Operations that end at once -/

/-- A locking operation whose start ends it gives its result and leaves the block ready (R71, R250). -/
theorem exec_ends {i : Instr} {s t : State} {r : Result} (hl : locks i = true) (hwf : i.wf = true)
    (hs : Ready s) (ht : Ready t)
    (h : startOf i { s with lock := true } = endOp .host r { t with lock := true }) :
    exec i s = .next { t with result := some r } := by
  obtain ⟨hlock, hphase⟩ := hs
  obtain ⟨htlock, htphase⟩ := ht
  rw [exec_locked hl, issueLocked_ready hwf hlock hphase, h, resume, drive_idle rfl]
  simp only [endOp, lockAfter, htlock, htphase]

/-- A locking operation of the fragmenter that is refused changes nothing but the result. -/
theorem exec_refused {α : Type} {i : Instr} {s : State} {e : Error} {r : Except Error α}
    {ok : α → Value × State} (hl : locks i = true) (hwf : i.wf = true) (hs : Ready s)
    (hi : startOf i { s with lock := true } = endWith r { s with lock := true } ok)
    (hr : r = .error e) : exec i s = .next { s with result := some (.err e) } :=
  exec_ends hl hwf hs hs (by rw [hi, hr]; rfl)

/-- A locking operation of the fragmenter that answers with a value. -/
theorem exec_answered {α : Type} {i : Instr} {s t : State} {v : Value} {a : α} {r : Except Error α}
    {ok : α → Value × State} (hl : locks i = true) (hwf : i.wf = true) (hs : Ready s) (ht : Ready t)
    (hi : startOf i { s with lock := true } = endWith r { s with lock := true } ok)
    (hr : r = .ok a) (ha : ok a = (v, { t with lock := true })) :
    exec i s = .next { t with result := some (.ok v) } :=
  exec_ends hl hwf hs ht (by rw [hi, hr, endWith, ha])

/-! ### The fragmenter's operations, an equation for each case -/

/-- The registers after `FragInit` accepted a payload (R150). -/
def afterInit (payload : List Byte) (s : State) : State :=
  { s with
    pay := payload, plen := payload.length, cursor := 0, seq := 0, chk := 0, more := true
    curOff := 0, curLen := 0, acc := [], fragValid := true }

/-- The registers after `NextHeader` gave a header (R151). -/
def afterHeader (s : State) : State :=
  { s with
    chk := chkUpdate s.cfg s.chk (nextBytes s), seq := s.seq + 1, curOff := s.cursor
    curLen := nextLen s, cursor := s.cursor + nextLen s, more := !isFinal (nextRem s) (nextLen s) }

section
variable {s : State}

theorem fragInit_loads {payload : List Byte} (h1 : 1 ≤ payload.length) (hm : payload.length ≤ 16384) :
    fragInit payload s = (afterInit payload s, none) :=
  if_neg (by simp only [Const.maxPayload]; omega)

theorem fragInit_refuses {payload : List Byte} (h : payload.length = 0 ∨ 16384 < payload.length) :
    fragInit payload s = ({ s with fragValid := false }, some ErrCode.invalidPayload.plain) := if_pos h

theorem nextHeader_formed (hv : s.fragValid = true) (hm : s.more = true) :
    nextHeader s = .ok (nextHeaderBytes s, afterHeader s) :=
  if_neg (by simp [hv, hm])

theorem nextHeader_order (h : s.fragValid = false ∨ s.more = false) :
    nextHeader s = .error ErrCode.order.plain := by
  obtain h | h := h <;> simp [nextHeader, h]

theorem nextData_order (h : s.fragValid = false ∨ s.curLen = 0) :
    nextData s = .error ErrCode.order.plain := by
  obtain h | h := h <;> simp [nextData, h]

theorem finish_order (h : s.fragValid = false) : finish s = .error ErrCode.order.plain := by
  simp [finish, h]

theorem finish_reply (h : s.fragValid = true) : finish s = .ok s.acc := by simp [finish, h]

section
variable {header data : List Byte} {snap : Snapshot}

theorem acceptBlock_order (h : s.fragValid = false ∨ data.length ≠ (byteAt header 1).toNat) :
    acceptBlock header data snap s = .error ErrCode.order.plain := by
  obtain h | h := h <;> simp [acceptBlock, h]

variable (hv : s.fragValid = true) (hl : data.length = (byteAt header 1).toNat)
include hv hl

theorem acceptBlock_accepts
    (h : accepts s.cfg s.corr (blockResidual s.cfg header data) (byteAt header 1).toNat = true) :
    acceptBlock header data snap s = .ok (snap.sub == s.cfg.scCommandComplete,
      { s with acc := s.acc ++ bytesFrom data Const.reservedRx }) := by
  simp [acceptBlock, hv, hl, h]

theorem acceptBlock_crc
    (h : accepts s.cfg s.corr (blockResidual s.cfg header data) (byteAt header 1).toNat = false) :
    acceptBlock header data snap s = .error ⟨.crc, .block⟩ := by
  simp [acceptBlock, hv, hl, h]

end

/-- `ACCEPTBLOCK` of a block that passes the check (R155). -/
theorem exec_acceptblock_accepts {header data : List Byte} (hs : Ready s) (hh : header.length = 8)
    (hv : s.fragValid = true) (hl : data.length = (byteAt header 1).toNat)
    (h : accepts s.cfg s.corr (blockResidual s.cfg header data) (byteAt header 1).toNat = true)
    (snap : Snapshot) :
    exec (.acceptblock header data snap) s = .next { s with
      acc := s.acc ++ data.drop 3
      result := some (.ok (.complete (decide (snap.sub = s.cfg.scCommandComplete)))) } :=
  exec_answered (t := { s with acc := s.acc ++ data.drop 3 }) rfl (decide_eq_true hh) hs hs rfl
    (acceptBlock_accepts hv hl h) rfl

end

/-! ### The bytes of a header (R83, R87) -/

/-- A 16-bit field that holds a number: its two low bytes, low byte first (R8). -/
theorem le16_ofNat (n : Nat) : le16 (BitVec.ofNat 16 n) = [BitVec.ofNat 8 n, BitVec.ofNat 8 (n / 256)] := by
  rw [le16_eq, BitVec.setWidth_ofNat_of_le (by decide)]
  congr 2
  apply BitVec.eq_of_toNat_eq
  simp only [BitVec.toNat_setWidth, BitVec.toNat_ushiftRight, BitVec.toNat_ofNat,
    Nat.shiftRight_eq_div_pow]
  omega

theorem nextHeaderBytes_eq (s : State) : nextHeaderBytes s =
    [s.seq.setWidth 8 ||| (if nextRem s = nextLen s then 0x80 else 0), BitVec.ofNat 8 (nextLen s),
     BitVec.ofNat 8 (nextRem s), BitVec.ofNat 8 (nextRem s / 256)]
    ++ le16 (crcField s.cfg (blockCrc s.cfg (BitVec.ofNat 8 (nextLen s)) (nextBytes s)))
    ++ le16 (chkUpdate s.cfg s.chk (nextBytes s)) := by
  simp only [nextHeaderBytes, le16_ofNat, headerByte0, isFinal, beq_iff_eq]
  rfl

/-- `NEXTHEADER` with a block left (R151). -/
theorem exec_nextheader_formed {s : State} (hs : Ready s) (hv : s.fragValid = true)
    (hm : s.more = true) : exec .nextheader s =
      .next { afterHeader s with result := some (.ok (.bytes (nextHeaderBytes s))) } :=
  exec_answered (i := .nextheader) (t := afterHeader s) rfl rfl hs hs rfl
    (nextHeader_formed (s := { s with lock := true }) hv hm) rfl

/-! ### The obligations about single operations -/

/-- Settles O18: `FragInit` in its two outcomes. -/
theorem fraginitLoadsOrRefuses : Obligations.FraginitLoadsOrRefuses := by
  unfold Obligations.FraginitLoadsOrRefuses
  intro s payload hs
  refine ⟨fun h1 hm => ?_, fun h => ?_⟩
  · refine exec_ends (t := afterInit payload s) rfl rfl hs hs ?_
    simp only [startOf, fragInit_loads h1 hm]
    rfl
  · refine exec_ends (t := { s with fragValid := false }) rfl rfl hs hs ?_
    simp only [startOf, fragInit_refuses h]
    rfl

/-- Settles O19: a header is formed exactly if a payload is loaded and a block is left. -/
theorem nextheaderFormsTheBlock : Obligations.NextheaderFormsTheBlock := by
  unfold Obligations.NextheaderFormsTheBlock
  refine fun s hs => ⟨fun h => exec_refused rfl rfl hs rfl (nextHeader_order h), ?_⟩
  rintro rem blen data fld chk hv hm rfl rfl rfl rfl rfl
  have hmore : (!isFinal (nextRem s) (nextLen s)) = decide (nextRem s ≠ nextLen s) := by
    simp [isFinal, beq_eq_decide]
  rw [exec_nextheader_formed hs hv hm, nextHeaderBytes_eq, le16_eq, le16_eq, afterHeader, hmore]
  rfl

/-- Settles O20: each byte adds its value modulo 65536. -/
theorem checksumIsTheByteSum : Obligations.ChecksumIsTheByteSum := by
  unfold Obligations.ChecksumIsTheByteSum
  intro cfg chk data h
  simp only [chkUpdate, h]
  induction data generalizing chk with
  | nil => simp [byteSum, Nat.mod_eq_of_lt chk.isLt]
  | cons b data ih =>
    have hb : (b.setWidth 16).toNat = b.toNat := BitVec.toNat_setWidth_of_le (by decide)
    calc (byteSum chk (b :: data)).toNat
        = ((chk + b.setWidth 16).toNat + (data.map BitVec.toNat).sum) % 65536 := ih _
      _ = (chk.toNat + ((b :: data).map BitVec.toNat).sum) % 65536 := by
        rw [BitVec.toNat_add, hb, List.map_cons, List.sum_cons]
        omega

/-- Settles O21: the slice is there exactly if it is not empty. -/
theorem nextdataGivesTheSlice : Obligations.NextdataGivesTheSlice := by
  unfold Obligations.NextdataGivesTheSlice
  refine ⟨decodeHost_row rfl, fun s hs => ⟨fun h => ?_, fun hv hn => ?_⟩⟩
  · exact exec_refused rfl rfl hs rfl (nextData_order h)
  · exact exec_answered rfl rfl hs hs rfl (nextData_of_described hv (Nat.one_le_iff_ne_zero.2 hn)) rfl

/-- Settles O22: the tests of `AcceptBlock` in their order; the check is that of `VALIDATE`. -/
theorem acceptblockChecksAndAppends : Obligations.AcceptblockChecksAndAppends := by
  unfold Obligations.AcceptblockChecksAndAppends
  rintro s data snap b0 n b2 b3 b4 b5 b6 b7 header r hs rfl rfl
  refine ⟨fun h => ?_, fun hv hl hg hc => ?_, fun hv hl h => ?_⟩
  · exact exec_refused rfl rfl hs rfl (acceptBlock_order h)
  · refine exec_refused rfl rfl hs rfl (acceptBlock_crc hv hl ?_)
    simp only [accepts, Bool.or_eq_false_iff, beq_eq_false_iff_ne]
    exact ⟨hg, hc⟩
  · refine exec_acceptblock_accepts hs rfl hv hl ?_ snap
    simp only [accepts, Bool.or_eq_true, beq_iff_eq]
    exact h

/-- Settles O23: what has been accepted, if a payload is loaded. -/
theorem finishGivesTheReply : Obligations.FinishGivesTheReply := by
  unfold Obligations.FinishGivesTheReply
  refine ⟨decodeHost_row rfl, fun s hs => ⟨fun hv => ?_, fun hv => ?_⟩⟩
  · exact exec_refused rfl rfl hs rfl (finish_order hv)
  · exact exec_answered rfl rfl hs hs rfl (finish_reply hv) rfl

/-! ### The blocks of a payload (R157) -/

/-- The send side of a payload with `k` blocks formed and one more to form. -/
structure AtBlock (payload : List Byte) (cfg : Cfg) (k : Nat) (s : State) : Prop where
  valid : s.fragValid = true
  more : s.more = true
  frag : FragInv s
  cfg : s.cfg = cfg
  pay : s.pay = payload
  cursor : s.cursor = 120 * k

theorem afterInit_atBlock {payload : List Byte} (s : State) (h1 : 1 ≤ payload.length)
    (hm : payload.length ≤ 16384) : AtBlock payload s.cfg 0 (afterInit payload s) where
  valid := rfl
  more := rfl
  frag :=
    { length := rfl, atLeast := h1, atMost := hm, cursor := Nat.zero_le _, current := rfl
      block := Nat.zero_le _, more := ⟨fun _ => h1, fun _ => rfl⟩, fullBlocks := fun _ => rfl
      sequence := by simp [afterInit, Const.maxBlock] }
  cfg := rfl
  pay := rfl
  cursor := rfl

/-- Where `NextHeader` is out of order there are no more blocks. -/
theorem sendBlocks_order {s : State} (h : s.fragValid = false ∨ s.more = false) (fuel : Nat) :
    sendBlocks fuel s = [] := by
  cases fuel with
  | zero => rfl
  | succ fuel => simp only [sendBlocks, nextHeader_order h]

section
variable {payload : List Byte} {cfg : Cfg} {k : Nat} {s : State} (h : AtBlock payload cfg k s)
include h

theorem AtBlock.lt : 120 * k < payload.length := by
  rw [← h.cursor, ← h.pay, ← h.frag.length]
  exact h.frag.more.1 h.more

theorem AtBlock.rem_eq : nextRem s = payload.length - 120 * k := by
  rw [nextRem, h.frag.length, h.pay, h.cursor]

theorem AtBlock.len_eq : nextLen s = min (payload.length - 120 * k) 120 := by
  rw [nextLen, h.rem_eq, Const.maxBlock]

theorem AtBlock.bytes_eq : nextBytes s = (payload.drop (120 * k)).take 120 := by
  rw [nextBytes, h.len_eq, slice, h.pay, h.cursor, ← List.length_drop, Nat.min_comm]
  exact List.take_eq_take_min.symm

theorem AtBlock.bytes_length : (nextBytes s).length = nextLen s := by
  rw [h.bytes_eq, h.len_eq, List.length_take, List.length_drop, Nat.min_comm]

/-- The sequence number counts the blocks modulo 128 (R151). -/
theorem AtBlock.seq : s.seq.toNat = k % 128 := by
  rw [h.frag.sequence, h.cursor, Const.maxBlock]
  omega

/-- The block at hand and those after it. -/
theorem AtBlock.sendBlocks_succ (fuel : Nat) : sendBlocks (fuel + 1) s =
    (nextHeaderBytes s, nextBytes s) :: sendBlocks fuel (afterHeader s) := by
  have hdata : nextData (afterHeader s) = .ok (nextBytes s) :=
    nextData_of_described (s := afterHeader s) h.valid (h.frag.one_le_nextLen h.more)
  simp only [sendBlocks, nextHeader_formed h.valid h.more, hdata]

/-- Blocks are left after this one exactly if it does not take all that is left. -/
theorem AtBlock.afterHeader_more : (afterHeader s).more = true ↔ 120 * (k + 1) < payload.length := by
  have hlt := h.lt
  simp only [afterHeader, isFinal, Bool.not_eq_true', beq_eq_false_iff_ne, h.len_eq, h.rem_eq]
  omega

theorem AtBlock.next (hm : (afterHeader s).more = true) :
    AtBlock payload cfg (k + 1) (afterHeader s) where
  valid := h.valid
  more := hm
  frag := h.frag.nextHeader h.more
  cfg := h.cfg
  pay := h.pay
  cursor := by
    have hlt := h.afterHeader_more.1 hm
    change s.cursor + nextLen s = 120 * (k + 1)
    rw [h.cursor, h.len_eq]
    omega

end

/-- Every block that the send side forms is the one at hand in some state of it. -/
theorem AtBlock.of_sendBlocks {payload : List Byte} {cfg : Cfg} {k j fuel : Nat} {s : State}
    {b : List Byte × List Byte} (h : AtBlock payload cfg k s) (hb : (sendBlocks fuel s)[j]? = some b) :
    ∃ u, AtBlock payload cfg (k + j) u ∧ b = (nextHeaderBytes u, nextBytes u) := by
  induction fuel generalizing k j s with
  | zero => simp [sendBlocks] at hb
  | succ fuel ih =>
    rw [h.sendBlocks_succ] at hb
    cases j with
    | zero =>
      cases hb
      exact ⟨s, h, rfl⟩
    | succ j =>
      rw [List.getElem?_cons_succ] at hb
      cases hm : (afterHeader s).more with
      | false => simp [sendBlocks_order (.inr hm)] at hb
      | true =>
        rw [← Nat.succ_add_eq_add_succ]
        exact ih (h.next hm) hb

/-- With enough fuel the blocks cover what is left of the payload. -/
theorem AtBlock.sendBlocks_covers {payload : List Byte} {cfg : Cfg} {k fuel : Nat} {s : State}
    (h : AtBlock payload cfg k s) (hf : (payload.length - 120 * k + 119) / 120 ≤ fuel) :
    (sendBlocks fuel s).length = (payload.length - 120 * k + 119) / 120 ∧
      ((sendBlocks fuel s).map Prod.snd).flatten = payload.drop (120 * k) := by
  have hlt := h.lt
  induction fuel generalizing k s with
  | zero => omega
  | succ fuel ih =>
    rw [h.sendBlocks_succ, List.length_cons, List.map_cons, List.flatten_cons, h.bytes_eq]
    cases hm : (afterHeader s).more with
    | false =>
      have hlast : ¬ 120 * (k + 1) < payload.length := by simp [← h.afterHeader_more, hm]
      rw [sendBlocks_order (.inr hm)]
      refine ⟨by simp only [List.length_nil]; omega, ?_⟩
      rw [List.map_nil, List.flatten_nil, List.append_nil]
      exact List.take_of_length_le (by rw [List.length_drop]; omega)
    | true =>
      have hmore := h.afterHeader_more.1 hm
      obtain ⟨hlen, hdata⟩ := ih (h.next hm) (by omega) hmore
      rw [hlen, hdata]
      refine ⟨by omega, ?_⟩
      rw [Nat.mul_succ, ← List.drop_drop, List.take_append_drop]

/-! ### What a formed block carries -/

/-- The sequence number with the final bit (R87 a). -/
theorem seq_or_finalBit {seq : BitVec 7} {n : Nat} (h : seq.toNat = n) (p : Prop) [Decidable p] :
    seq.setWidth 8 ||| (if p then 0x80 else 0) = BitVec.ofNat 8 (n + if p then 128 else 0) := by
  subst h
  have hlt := seq.isLt
  apply BitVec.eq_of_toNat_eq
  split
  · have hor := Nat.two_pow_add_eq_or_of_lt hlt 1
    simp only [BitVec.toNat_or, BitVec.toNat_setWidth, BitVec.toNat_ofNat]
    rw [Nat.mod_eq_of_lt (by omega), Nat.or_comm]
    change 2 ^ 7 * 1 ||| seq.toNat = _
    rw [← hor]
    omega
  · simp

section
variable {payload : List Byte} {cfg : Cfg} {k : Nat} {s : State} (h : AtBlock payload cfg k s)
include h

/-- The header of block `k` (R157 b to d). -/
theorem AtBlock.header_eq : nextHeaderBytes s =
    [BitVec.ofNat 8 (k % 128 + if k + 1 = (payload.length + 119) / 120 then 128 else 0),
     BitVec.ofNat 8 (nextBytes s).length, BitVec.ofNat 8 (payload.length - 120 * k),
     BitVec.ofNat 8 ((payload.length - 120 * k) / 256)]
    ++ le16 (crcField s.cfg (blockCrc s.cfg (BitVec.ofNat 8 (nextLen s)) (nextBytes s)))
    ++ le16 (chkUpdate s.cfg s.chk (nextBytes s)) := by
  have hlt := h.lt
  have hlast : payload.length - 120 * k = nextLen s ↔ k + 1 = (payload.length + 119) / 120 := by
    rw [h.len_eq]
    omega
  simp only [nextHeaderBytes_eq, h.rem_eq, hlast, seq_or_finalBit h.seq, h.bytes_length]

/-- The length byte holds the length: a block has at most 120 bytes. -/
theorem AtBlock.lengthByte : (byteAt (nextHeaderBytes s) 1).toNat = (nextBytes s).length := by
  have hlen := h.len_eq
  rw [← h.bytes_length] at hlen
  rw [h.header_eq]
  change (BitVec.ofNat 8 (nextBytes s).length).toNat = _
  rw [BitVec.toNat_ofNat]
  omega

/-- With the default CRC the residual of a formed block is good (R131, R153). -/
theorem AtBlock.residual_good (hc : cfg.crcFn = .oneWire) :
    blockResidual cfg (nextHeaderBytes s) (nextBytes s) = goodResidual cfg := by
  obtain ⟨hown, -, -⟩ := ownCrcLeavesGoodResidual cfg hc
  simp only [← le16_eq] at hown
  obtain rfl := h.cfg
  exact hown s.cfg.blockCrcSeed (BitVec.ofNat 8 (nextLen s) :: nextBytes s)

end

/-! ### The obligations about a whole payload -/

/-- Settles O24: the blocks are those at hand in the states of the send side. -/
theorem fragmentingCoversThePayload : Obligations.FragmentingCoversThePayload := by
  unfold Obligations.FragmentingCoversThePayload
  rintro s payload fuel blocks h1 hm hf rfl
  rw [fragInit_loads h1 hm]
  have hinit := afterInit_atBlock s h1 hm
  obtain ⟨hcount, hdata⟩ := hinit.sendBlocks_covers hf
  refine ⟨hcount, hdata, fun k h d hb => ?_⟩
  obtain ⟨u, hu, hbytes⟩ := hinit.of_sendBlocks hb
  rw [Nat.zero_add] at hu
  cases hbytes
  have hlt := hu.lt
  have hlen : (nextBytes u).length = min 120 (payload.length - 120 * k) := by
    rw [hu.bytes_length, hu.len_eq, Nat.min_comm]
  rw [hcount]
  refine ⟨hlen, by omega, nextHeaderBytes_length u, ?_, ?_, ?_, ?_, fun hc => ?residual⟩
  case residual =>
    rw [hu.bytes_length]
    exact hu.residual_good hc
  all_goals
    rw [hu.header_eq]
    rfl

/-- Settles O25: a formed block has a length byte that fits and a good residual, whatever the table. -/
theorem sentBlocksAreAccepted : Obligations.SentBlocksAreAccepted := by
  unfold Obligations.SentBlocksAreAccepted
  intro s t payload fuel h d snap hmem hcfg hc ht hv
  obtain ⟨-, hf⟩ | ⟨⟨h1, hm⟩, hf⟩ := fragInit_cases s payload <;> rw [hf] at hmem
  · rw [sendBlocks_order (.inl rfl)] at hmem
    cases hmem
  · obtain ⟨j, hj⟩ := List.mem_iff_getElem?.1 hmem
    obtain ⟨u, hu, hb⟩ := (afterInit_atBlock s h1 hm).of_sendBlocks hj
    cases hb
    refine exec_acceptblock_accepts ht rfl hv hu.lengthByte.symm ?_ snap
    rw [hcfg, accepts_iff]
    exact .inl (hu.residual_good hc)

/-! ### How a transfer ends (R230, R231, R235, R236) -/

/-- After a move of a transfer: it waits for an answer, or it has given what it accumulated, or refused
the speed, or given the error that it put in `LAST_ERR`. -/
inductive Concluded (t : State) : Prop
  | waits (h : t.phase ≠ .idle)
  | replied (h : t.result = some (.ok (.bytes t.acc)))
  | wrongSpeed (h : t.result = some (.err ErrCode.wrongSpeed.plain))
  | failed (e : Error) (hl : t.lastErr = some e) (h : t.result = some (.err e))

theorem Concluded.setAnswers {t : State} (h : Concluded t) (l : List Answer) :
    Concluded { t with answers := l } := by
  cases h with
  | waits h => exact .waits h
  | replied h => exact .replied h
  | wrongSpeed h => exact .wrongSpeed h
  | failed e hl h => exact .failed e hl h

section
variable (s : State)

theorem startExchange_concluded (c rel : List Byte) (p : Bool) (ms : Nat) (k : ExchCaller) :
    Concluded (startExchange c rel p ms k s) := .waits (by simp)

theorem startPoll_concluded (c : PollCaller) (d : Dir) (code : Int) :
    Concluded (startPoll c d code s) := .waits (by simp)

theorem transferStop_concluded (e : Error) : Concluded (transferStop e s) := .failed e rfl rfl

theorem startAttempt_concluded : Concluded (startAttempt s) := by
  rw [startAttempt_eq]
  split
  · exact transferStop_concluded ..
  · exact startPoll_concluded ..

/-- Step 6 records the error it gives (R236). -/
theorem transferFail_concluded (e : Error) : Concluded (transferFail e s) := by
  unfold transferFail
  split
  · exact transferStop_concluded ..
  · split
    · exact .failed e rfl rfl
    · exact startAttempt_concluded ..

theorem raise_concluded {o : Owner} (ho : o = .transfer) (e : Error) : Concluded (raise o e s) :=
  ho ▸ transferFail_concluded s e

section
variable {c : PollCaller} (hc : c.owner = .transfer)
include hc

theorem pollNext_concluded : Concluded (pollNext c s) := by
  unfold pollNext
  split
  · exact raise_concluded s hc _
  · exact .waits (by simp [pollRead, startReadStatus])

theorem pollReturn_concluded : Concluded (pollReturn c s) := by
  cases c with
  | host => cases hc
  | sendLoop =>
    simp only [pollReturn, orRaise]
    cases nextHeader s with
    | error e => exact raise_concluded s rfl e
    | ok p => exact startExchange_concluded ..
  | receiveLoop => exact startExchange_concluded ..

theorem pollAct_concluded (a : Arm) : Concluded (pollAct c a s) := by
  cases a with
  | succeed => exact pollReturn_concluded s hc
  | fail e => exact raise_concluded s hc _
  | porRecover | busy | firstBirthday | masterErase | commandNotComplete | responseIncomplete
  | vmIncomplete => exact startExchange_concluded ..

end

section
variable {c : StatusCaller} (hc : c.owner = .transfer)
include hc

theorem statusAnswered_concluded (rx : List Byte) : Concluded (statusAnswered c rx s) := by
  unfold statusAnswered
  dsimp only
  split
  · cases c with
    | host | wire => cases hc
    | poll c => exact pollAct_concluded _ hc _
  · exact raise_concluded _ hc _

theorem selectAgainAnswered_concluded (ok : Bool) : Concluded (selectAgainAnswered c ok s) := by
  cases ok
  · exact raise_concluded _ hc _
  · exact .waits nofun

end

theorem headerRead_concluded (h : List Byte) : Concluded (headerRead h s) := by
  unfold headerRead
  split
  · exact raise_concluded s rfl _
  · exact startExchange_concluded ..

/-- The last block of a reply ends the transfer with `Finish`, which gives the accumulator (R235). -/
theorem dataRead_concluded (h d : List Byte) : Concluded (dataRead h d s) := by
  unfold dataRead
  simp only [orRaise]
  cases acceptBlock h d s.snap s with
  | error e => exact raise_concluded s rfl e
  | ok p =>
    obtain ⟨done, t⟩ := p
    dsimp only
    split
    · cases hv : t.fragValid with
      | false =>
        rw [finish_order hv]
        exact raise_concluded t rfl _
      | true =>
        rw [finish_reply hv]
        exact .replied rfl
    · exact startExchange_concluded ..

section
variable {k : ExchCaller} (hk : k.owner = .transfer)
include hk

theorem exchangeReturn_concluded : Concluded (exchangeReturn k s) := by
  cases k with
  | host | wire => cases hk
  | pollWrite | porWrite | tSData | tSWs | tRWs => exact startExchange_concluded ..
  | pollRun | pollBump => exact pollNext_concluded _ hk
  | porRun p =>
    cases p with
    | alone => cases hk
    | poll c => exact pollNext_concluded s hk
  | tSHdr =>
    simp only [exchangeReturn, orRaise]
    cases nextData s with
    | error e => exact raise_concluded s rfl e
    | ok d => exact startExchange_concluded ..
  | tSRun =>
    simp only [exchangeReturn]
    split <;> exact startPoll_concluded ..
  | tRHdr => exact headerRead_concluded ..
  | tRData h => exact dataRead_concluded ..
  | tRRun => exact startPoll_concluded ..

theorem sampled_concluded (b : Bool) : Concluded (sampled k b s) := by
  unfold sampled
  split
  · exact raise_concluded s hk _
  · exact exchangeReturn_concluded s hk

end

theorem speedAnswered_concluded (code : Int) (sp : Speed) : Concluded (speedAnswered code sp s) := by
  cases sp
  · exact .wrongSpeed rfl
  · exact startAttempt_concluded ..

end

/-- Every answer that a transfer takes leaves it waiting or ends it in one of these ways. -/
theorem Fed.concluded {a : Answer} {s t : State} (h : Fed s a t) (ho : s.phase.owner = some .transfer) :
    Concluded t := by
  cases h with
  | speed => exact speedAnswered_concluded ..
  | @select c ok => cases ok <;> exact .waits nofun
  | selectAgain hp =>
    rw [hp] at ho
    exact selectAgainAnswered_concluded s (Option.some.inj ho) _
  | status hp =>
    rw [hp] at ho
    exact statusAnswered_concluded _ (Option.some.inj ho) _
  | statusFail hp | retryFail hp =>
    rw [hp] at ho
    exact raise_concluded _ (Option.some.inj ho) _
  | block =>
    refine .waits ?_
    simp only [blockAnswered]
    split <;> nofun
  | blockFail | smart => exact .waits nofun
  | powerBit hp | bit hp =>
    rw [hp] at ho
    exact sampled_concluded _ (Option.some.inj ho) _

/-- What a run on the answers of a transfer keeps: it waits as a transfer, or has ended as one may. -/
structure OfTransfer (s : State) : Prop where
  owner : s.phase ≠ .idle → s.phase.owner = some .transfer
  concluded : Concluded s

theorem Fed.ofTransfer {a : Answer} {s t : State} (h : Fed s a t) (hi : s.phase ≠ .idle)
    (hs : OfTransfer s) : OfTransfer t := by
  have ho := hs.owner hi
  refine ⟨fun ht => ?_, h.concluded ho⟩
  obtain ⟨o, hown, hc⟩ := h.continues
  cases hc with
  | waits howner => rw [howner, ← hown, ho]
  | ends hidle => exact absurd hidle ht

/-- A transfer under way that goes on. -/
theorem resume_concluded {s t : State} (ho : s.phase.owner = some .transfer)
    (h : resume s = .next t) : Concluded t := by
  have begins : OfTransfer s := ⟨fun _ => ho, .waits fun hi => by simp [hi, Phase.owner] at ho⟩
  exact (drive_keeps (P := OfTransfer) (fun _ _ _ hu hi hf => (feed_fed hi hf).ofTransfer hi hu)
    (fun _ l hu => ⟨hu.owner, hu.concluded.setAnswers l⟩) _ s t begins h).concluded

/-- Settles O49: the errors that `LAST_ERR` may hold are none of the three. -/
theorem transferNeverEndsInOrder : Obligations.TransferNeverEndsInOrder := by
  unfold Obligations.TransferNeverEndsInOrder
  intro s s' hinv hrun hidle
  have hends : Inv s' ∧ Concluded s' := by
    obtain ⟨ho, hh, h⟩ | ⟨⟨hlock, hphase⟩, payload, code, h⟩ := hrun
    · have hr := step_resumes hh h
      exact ⟨resume_inv hinv hr, resume_concluded ho hr⟩
    · refine ⟨(exec_executed h).inv rfl hinv, ?_⟩
      rw [exec_locked rfl, issueLocked_ready rfl hlock hphase] at h
      exact resume_concluded rfl h
  obtain ⟨hinv', hend⟩ := hends
  cases hend with
  | waits h => exact absurd hidle h
  | replied h => exact .inl h
  | wrongSpeed h => exact .inr ⟨_, h, by decide⟩
  | failed e hl h =>
    obtain ⟨hillegal, hrange, horder, -⟩ := hinv'.lastError e hl
    exact .inr ⟨e, h, hillegal, hrange, horder⟩

end Sys2Proof.Machine

/-! SUPPORT. Proofs of the family 43_status_poll: status reads, the loop of a poll from one status read
to the next, and the POR recovery. -/

namespace Sys2Proof.Machine

/-! ### The status bytes (R171) -/

/-- A mask of one bit picks that bit. -/
theorem and_bit_bne_zero {m : Byte} {i : Nat} (b : Byte) (hi : i < 8) (hm : m = BitVec.twoPow 8 i) :
    (b &&& m != 0) = b.getLsbD i := by
  have hone : ∀ i < 8, BitVec.twoPow 8 i ≠ 0#8 := by decide
  rw [hm, BitVec.and_twoPow]
  cases b.getLsbD i with
  | false => rfl
  | true => exact bne_iff_ne.2 (hone i hi)

/-- `DecodeStatus` bit by bit (R171). -/
theorem decodeStatus_bytes (cfg : Cfg) (b0 b1 b2 b3 : Byte) :
    decodeStatus cfg [b0, b1, b2, b3] =
      { free := b0 &&& ~~~cfg.freeDontcareMask, used := b1, por := b2.getLsbD 6
        cnc := b2.getLsbD 5, sub := b2.setWidth 5, busy := b3.getLsbD 0 } := by
  have hpor : (b2 &&& Const.porBit != 0) = b2.getLsbD 6 := and_bit_bne_zero b2 (by decide) rfl
  have hcnc : (b2 &&& Const.cncBit != 0) = b2.getLsbD 5 := and_bit_bne_zero b2 (by decide) rfl
  have hbusy : (b3 &&& Const.cpBusyBit != 0) = b3.getLsbD 0 := and_bit_bne_zero b3 (by decide) rfl
  have hsub : b2.setWidth 5 = b2.extractLsb' 0 5 := BitVec.setWidth_eq_extractLsb' (by decide)
  rw [hsub, ← hpor, ← hcnc, ← hbusy]
  rfl

/-- Settles O26: each flag is a mask of one bit. -/
theorem decodestatusReadsTheBits : Obligations.DecodestatusReadsTheBits := by
  unfold Obligations.DecodestatusReadsTheBits
  refine ⟨fun p hp => ?_, fun s b0 b1 b2 b3 => ?_⟩
  · rw [decodeHost_row rfl]
    exact checkTyped_ok.2 ⟨rfl, decide_eq_true hp⟩
  · rw [← decodeStatus_bytes]
    rfl

/-! ### Operations that make calls -/

section
variable {i : Instr} {s : State}

/-- A locking operation issued in a ready state runs on the answers at hand (R71). -/
theorem exec_ready (hl : locks i = true) (hwf : i.wf = true) (hs : Ready s)
    (ha : (startOf i { s with lock := true }).answers = s.answers) :
    exec i s = drive s.answers (startOf i { s with lock := true }) := by
  obtain ⟨hlock, hphase⟩ := hs
  rw [exec_locked hl, issueLocked_ready hwf hlock hphase, resume, ha]

/-- So does one issued inside another operation, in IDLE (R89). -/
theorem exec_inside_idle (hi : insideOf i = true) (hwf : i.wf = true) (hp : s.phase = .idle)
    (ha : (startOf i s).answers = s.answers) : exec i s = drive s.answers (startOf i s) := by
  rw [exec_inside hi, issueInside_idle hwf hp, resume, ha]

/-- An operation of the host that has ended leaves `LOCK` and `PHASE` as a ready state has them, and the
answers that it did not use (R31, R250). -/
theorem drive_ended {t : State} {trace : List Event} (hs : Ready s) (r : Result) (as : List Answer)
    (ht : t.trace = trace) :
    drive as (endOp .host r t) = .next { t with
      result := some r, phase := s.phase, lock := s.lock, trace := trace, answers := as } := by
  obtain ⟨hlock, hphase⟩ := hs
  rw [drive_idle rfl, hlock, hphase, ← ht]
  rfl

/-- An answer is taken only where a call waits for one. -/
theorem Fed.not_idle {a : Answer} {t : State} (h : Fed s a t) : s.phase ≠ .idle := by
  obtain ⟨o, ho, -⟩ := h.continues
  intro hi
  rw [hi] at ho
  cases ho

/-- A run on answers takes the first and goes on. -/
theorem Fed.drive {a : Answer} {t : State} (h : Fed s a t) (as : List Answer) :
    drive (a :: as) s = Machine.drive as t := drive_cons h.not_idle h.feed

/-- A step on one answer takes it. -/
theorem Fed.step {a : Answer} {t : State} (h : Fed s a t) (hh : s.host = []) (ha : s.answers = [a]) :
    step s = .next { t with answers := [] } := step_oneAnswer hh ha h.not_idle h

/-- A step on one answer that raises an error. -/
theorem Fed.step_raises {a : Answer} {u : State} {o : Owner} {e : Error} (h : Fed s a (raise o e u))
    (hh : s.host = []) (ha : s.answers = [a]) :
    Machine.step s = .next (raise o e { u with answers := [] }) :=
  Machine.step_raises hh ha h.not_idle h rfl

end

/-! ### Status reads (R170) -/

/-- A status read whose device has been selected, after some events. -/
def selected (c : StatusCaller) (es : List Event) (s : State) : State :=
  { s with phase := .statusBlock c, trace := s.trace ++ es ++ [.selectDevice s.addr true] }

/-- The selection of the device that a status read makes, at the first try or at the second. -/
theorem drive_selected {s : State} {c : StatusCaller} {pre as : List Answer} {es : List Event}
    {retried : Bool} (hp : s.phase = .select c)
    (hpre : pre = if retried then [.selected false] else [])
    (hes : es = if retried then [.selectDevice s.addr false, .renegotiateSpeed] else []) :
    drive (pre ++ .selected true :: as) s = drive as (selected c es s) := by
  subst hpre hes
  cases retried with
  | false =>
    rw [if_neg nofun, if_neg nofun, List.nil_append, (Fed.select hp).drive, selected, List.append_nil]
    rfl
  | true =>
    have hagain : (selectAnswered c false s).phase = .selectAgain c := rfl
    rw [if_pos rfl, if_pos rfl, List.cons_append, (Fed.select hp).drive, List.nil_append,
      (Fed.selectAgain hagain).drive]
    rfl

section
variable {s : State} {c : StatusCaller} {rx : List Byte}

/-- A reply that passes the check is decoded into `SNAP` and given to the caller. -/
theorem fed_goodStatus (hp : s.phase = .statusBlock c) (h : GoodStatus s rx) :
    Fed s (.block rx) (statusReturn c { s with
      statusScratch := rx, snap := snapshotOf s rx
      trace := s.trace ++ [.dataBlock (statusFrame s.cfg) (some rx)] }) :=
  statusAnswered_good (s := emit [.dataBlock (statusFrame s.cfg) (some rx)] s) c h ▸ .status hp h.1

/-- A reply that does not is `CRC(status)`. -/
theorem fed_badStatus (hp : s.phase = .statusBlock c) (hl : rx.length = 7) (h : ¬ GoodStatus s rx) :
    Fed s (.block rx) (raise c.owner ⟨.crc, .status⟩ { s with
      statusScratch := rx, trace := s.trace ++ [.dataBlock (statusFrame s.cfg) (some rx)] }) :=
  statusAnswered_bad (s := emit [.dataBlock (statusFrame s.cfg) (some rx)] s) c hl h ▸ .status hp hl

end

/-- Settles O27: the selection, then the three answers of the status exchange; every call that fails
raises its error to the owner. -/
theorem readstatusReads : Obligations.ReadstatusReads := by
  unfold Obligations.ReadstatusReads
  refine ⟨fun s retried pre es rest hs hpre hes => ?whole, fun s c hh => ?calls⟩
  case whole =>
    have reads : ∀ a, s.answers = pre ++ [.selected true, a] ++ rest → exec .readstatus s
        = drive (a :: rest) (selected .host es { s with lock := true }) := fun a ha => by
      rw [exec_ready rfl rfl hs rfl, ha, List.append_assoc]
      exact drive_selected rfl hpre hes
    refine ⟨fun rx ha hg => ?_, fun rx ha hl hg => ?_, fun ha => ?_, fun ha => ?_⟩
    · rw [reads _ ha, (fed_goodStatus (s := selected .host es { s with lock := true }) rfl hg).drive]
      exact (drive_ended hs _ rest (by simp [selected, statusEvents])).trans rfl
    · rw [reads _ ha, (fed_badStatus (s := selected .host es { s with lock := true }) rfl hl hg).drive]
      exact (drive_ended hs _ rest (by simp [selected, statusEvents])).trans rfl
    · rw [reads _ ha, (Fed.statusFail rfl).drive]
      exact (drive_ended hs _ rest (by simp [selected])).trans rfl
    · rw [exec_ready rfl rfl hs rfl, ha, List.cons_append, (Fed.select rfl).drive,
        List.cons_append, (Fed.selectAgain rfl).drive]
      exact (drive_ended hs _ rest (by simp [selectAnswered, startOf, startReadStatus])).trans rfl
  case calls =>
    refine ⟨fun hp ha => ?_, fun hp ha => ?_, fun hp ha => ?_, fun hp ha => ?_,
      fun rx hp ha hl hg => ?_⟩
    · obtain hp | hp := hp
      · exact (Fed.select hp).step hh ha
      · exact (Fed.selectAgain hp).step hh ha
    · exact (Fed.select hp).step hh ha
    · exact (Fed.selectAgain hp).step_raises hh ha
    · exact (Fed.statusFail hp).step_raises hh ha
    · exact (fed_badStatus hp hl hg).step_raises hh ha

/-! ### Frames -/

section
variable {s t : State}

/-- A run on answers is within a transitive frame that each answer is within, as long as the operation
is of the kind that the frame speaks of. -/
theorem resume_within {F : State → State → Prop} {kind : Phase → Prop} (hp : kind s.phase)
    (hrefl : F s s) (htrans : ∀ {u v}, F s u → F u v → F s v) (hans : ∀ u l, F u { u with answers := l })
    (hfeed : ∀ {a u v}, kind u.phase → feed a u = .next v → F u v ∧ (v.phase = .idle ∨ kind v.phase))
    (h : resume s = .next t) : F s t := by
  refine (drive_keeps (P := fun u => F s u ∧ (u.phase ≠ .idle → kind u.phase))
    (fun a u v hu hi hf => ?_) (fun u l hu => ⟨htrans hu.1 (hans u l), hu.2⟩) _ s t
    ⟨hrefl, fun _ => hp⟩ h).1
  obtain ⟨hframe, hend⟩ := hfeed (hu.2 hi) hf
  exact ⟨htrans hu.1 hframe, hend.resolve_left⟩

/-- A status read that is a whole operation changes its own registers only. -/
theorem resume_statusFrame {c : StatusCaller} (hc : c = .host ∨ c = .wire)
    (hp : s.phase.statusRead = some c) (h : resume s = .next t) : StatusFrame s t :=
  resume_within (kind := fun p => p.statusRead = some c) hp (.of rfl) StatusFrame.trans
    (fun _ _ => .of rfl) (feed_statusFrame hc) h

/-- So does a POR recovery run on its own. -/
theorem resume_recoverFrame {k : ExchCaller} (hk : ofRecovery k) (hp : s.phase.exchange = some k)
    (h : resume s = .next t) : RecoverFrame s t :=
  resume_within (kind := fun p => ∃ k, ofRecovery k ∧ p.exchange = some k) ⟨k, hk, hp⟩ ⟨.of rfl, rfl⟩
    RecoverFrame.trans (fun _ _ => ⟨.of rfl, rfl⟩)
    (fun ⟨_, hk', hp'⟩ hf => feed_recoverFrame hk' hp' hf) h

/-- And a poll of the host. -/
theorem resume_pollFrame (hp : s.phase.poll? = some .host) (h : resume s = .next t) :
    PollLoopFrame s t :=
  resume_within (kind := fun p => p.poll? = some .host) hp (.of rfl) PollLoopFrame.trans
    (fun _ _ => .of rfl) feed_inPoll h

end

/-- Settles O42: each answer taken keeps the frame, and so does the start of the operation. -/
theorem pollFrame : Obligations.PollFrame := by
  unfold Obligations.PollFrame
  refine ⟨fun s s' i hs h => ?issued, fun s s' hh h => ?later⟩
  case issued =>
    obtain ⟨hlock, hphase⟩ := hs
    refine ⟨?_, ?_, ?_⟩
    · rintro (rfl | rfl)
      · rw [exec_locked rfl, issueLocked_ready rfl hlock hphase] at h
        have start : StatusFrame s (startOf .readstatus { s with lock := true }) := .of rfl
        exact start.trans (resume_statusFrame (.inl rfl) rfl h)
      · rw [exec_inside rfl, issueInside_idle rfl hphase] at h
        have start : StatusFrame s (startOf .wireReadStatus s) := .of rfl
        exact start.trans (resume_statusFrame (.inr rfl) rfl h)
    · rintro rfl
      rw [exec_inside rfl, issueInside_idle rfl hphase] at h
      have start : RecoverFrame s (startOf .porrecover s) := ⟨.of rfl, rfl⟩
      exact start.trans (resume_recoverFrame (.inl rfl) rfl h)
    · rintro dir code rfl
      rw [exec_locked rfl, issueLocked_ready rfl hlock hphase] at h
      have start : PollLoopFrame s (startOf (.poll dir code) { s with lock := true }) := .of rfl
      exact start.trans (resume_pollFrame rfl h)
  case later =>
    have hr := step_resumes hh h
    refine ⟨?_, ?_, fun hp => resume_pollFrame hp hr⟩
    · rintro (hp | hp)
      · exact resume_statusFrame (.inl rfl) hp hr
      · exact resume_statusFrame (.inr rfl) hp hr
    · rintro (hp | hp)
      · exact resume_recoverFrame (.inl rfl) hp hr
      · exact resume_recoverFrame (.inr rfl) hp hr

/-! ### POR recovery (R183) -/

/-- `PorRecover` begun: the bus reset, then the write status with `MIN + POR_ADJUST`. -/
theorem startPorRecover_eq (p : PorCaller) (s : State) :
    startPorRecover p s = exchangeStarted (writeStatusExch s (min 15 s.porAdjust)) (.porWrite p)
      { s with trace := s.trace ++ [.busReset] } := by
  rw [startPorRecover, startWriteStatus_eq, sat15_val, min_comm]
  simp [emit, Const.minCode, writeStatusExch]

/-- Its write understood, the run with the same code. -/
theorem exchangeReturn_porWrite (p : PorCaller) (s : State) : exchangeReturn (.porWrite p) s
    = exchangeStarted (runExch s (min 15 s.porAdjust)) (.porRun p) s := by
  rw [exchangeReturn, startRun_eq, sat15_val, min_comm]
  simp [Const.minCode]

/-- The state of a whole exchange when its status bit has been sampled (R94, R200, R205). -/
def exchanged (x : Exch) (r : Reply) (k : ExchCaller) (s : State) : State :=
  { s with
    sel0 := r.rx.getD 0 0, xCmd := x.cmd, xRel := x.rel, xPower := x.power, xMs := x.ms
    xReply := r.rx, phase := if x.power then .powerBit k else .bit k
    trace := s.trace ++ exchangeEvents s x r }

theorem answered_exchangeStarted (x : Exch) (r : Reply) (k : ExchCaller) (s : State) :
    answered r k (exchangeStarted x k s) = exchanged x r k s := by
  simp only [answered, frameOut_eq, exchanged, exchangeEvents, ← List.append_assoc]
  rfl

/-- A whole exchange that the device understands: its caller goes on. -/
theorem drive_understood {x : Exch} {r : Reply} {s : State} (k : ExchCaller) (as : List Answer)
    (hr : r.fits x) (hb : r.bit ≠ s.cfg.notUnderstoodBit) :
    drive (exchangeAnswers x r ++ as) (exchangeStarted x k s)
      = drive as (exchangeReturn k (exchanged x r k s)) := by
  rw [drive_exchangeStarted x k s as hr, answered_exchangeStarted]
  exact congrArg _ (sampled_understood hb)

/-- Settles O43: two exchanges understood, the second of which ends the operation. -/
theorem porrecoverRunsItsThreeCalls : Obligations.PorrecoverRunsItsThreeCalls := by
  unfold Obligations.PorrecoverRunsItsThreeCalls
  intro s m w r rest ws rn hp hws hrn hw hr hwb hrb ha hm
  obtain ⟨u, hu⟩ : ∃ u : State, u = { s with trace := s.trace ++ [.busReset] } := ⟨_, rfl⟩
  have hwrite : startOf .porrecover s = exchangeStarted ws (.porWrite .alone) u := by
    rw [hws, hu]
    exact startPorRecover_eq .alone s
  have hrun : exchangeReturn (.porWrite .alone) (exchanged ws w (.porWrite .alone) u)
      = exchangeStarted rn (.porRun .alone) (exchanged ws w (.porWrite .alone) u) := by
    rw [exchangeReturn_porWrite, hrn, hu]
    rfl
  rw [exec_inside_idle rfl rfl hp rfl, ha, List.append_assoc, hwrite, drive_understood _ _ hw, hrun,
    drive_understood _ _ hr, drive_idle rfl]
  · rw [hm, hu, afterExchange, hp]
    rfl
  · rw [hu]
    exact hrb
  · rw [hu]
    exact hwb

/-! ### The arms of the poll loop (R173 to R181, R184) -/

section
variable {cfg : Cfg} {dir : Dir} {armed : Bool} {snap : Snapshot}

theorem pollArm_por (h : snap.por = true) :
    pollArm cfg dir armed snap = if armed then .porRecover else .fail .porUncorrected := if_pos h

theorem pollArm_busy (hp : snap.por = false) (h : snap.busy = true) :
    pollArm cfg dir armed snap = .busy := by simp [pollArm, hp, h]

theorem pollArm_firstBirthday (hp : snap.por = false) (hb : snap.busy = false)
    (h : snap.sub = cfg.scFirstBirthday) : pollArm cfg dir armed snap = .firstBirthday := by
  simp [pollArm, hp, hb, h]

theorem pollArm_masterErase (hp : snap.por = false) (hb : snap.busy = false)
    (hf : snap.sub ≠ cfg.scFirstBirthday) (h : snap.sub = cfg.scMasterErase) :
    pollArm cfg dir armed snap = .masterErase := by
  rw [h] at hf
  simp [pollArm, hp, hb, hf, h]

theorem pollArm_commandNotComplete (hp : snap.por = false) (hb : snap.busy = false)
    (hf : snap.sub ≠ cfg.scFirstBirthday) (hm : snap.sub ≠ cfg.scMasterErase) (h : snap.cnc = true) :
    pollArm cfg dir armed snap = .commandNotComplete := by
  simp [pollArm, hp, hb, hf, hm, h]

theorem pollArm_responseIncomplete (hp : snap.por = false) (hb : snap.busy = false)
    (hf : snap.sub ≠ cfg.scFirstBirthday) (hm : snap.sub ≠ cfg.scMasterErase) (hc : snap.cnc = false)
    (h : snap.sub = cfg.scResponseIncomplete) :
    pollArm cfg dir armed snap = .responseIncomplete := by
  rw [h] at hf hm
  simp [pollArm, hp, hb, hf, hm, hc, h]

theorem pollArm_vmIncomplete (hp : snap.por = false) (hb : snap.busy = false)
    (hf : snap.sub ≠ cfg.scFirstBirthday) (hm : snap.sub ≠ cfg.scMasterErase) (hc : snap.cnc = false)
    (hr : snap.sub ≠ cfg.scResponseIncomplete) (h : snap.sub = cfg.scVmIncomplete)
    (hu : snap.used = 0) : pollArm cfg dir armed snap = .vmIncomplete := by
  rw [h] at hf hm hr
  simp [pollArm, hp, hb, hf, hm, hc, hr, h, hu]

/-- The steady state: arm 8 with its outcomes (R181). -/
theorem pollArm_steady (h : Steady cfg snap) : pollArm cfg dir armed snap =
    match dir with
    | .send => if 8 ≤ snap.free.toNat then .succeed else .fail .noRoom
    | .receive =>
      if snap.used.toNat = 8 then .succeed
      else if snap.used = 0 then .fail .noHeader else .fail .badHeader := by
  obtain ⟨hp, hb, hf, hm, hc, hr, hv⟩ := h
  simp only [pollArm, hp, hb, hf, hm, hc, hr, hv, Bool.false_eq_true, if_false]
  rfl

theorem pollArm_served (h : Steady cfg snap) (hs : Served dir snap) :
    pollArm cfg dir armed snap = .succeed := by
  rw [pollArm_steady h]
  cases dir <;> exact if_pos hs

theorem pollArm_noRoom (h : Steady cfg snap) (hf : snap.free.toNat < 8) :
    pollArm cfg .send armed snap = .fail .noRoom := by
  rw [pollArm_steady h]
  exact if_neg hf.not_ge

theorem pollArm_noHeader (h : Steady cfg snap) (hu : snap.used = 0) :
    pollArm cfg .receive armed snap = .fail .noHeader := by
  rw [pollArm_steady h]
  simp [hu]

theorem pollArm_badHeader (h : Steady cfg snap) (h0 : snap.used ≠ 0) (h8 : snap.used ≠ 8) :
    pollArm cfg .receive armed snap = .fail .badHeader := by
  have h8' : snap.used.toNat ≠ 8 := fun e => h8 (BitVec.eq_of_toNat_eq e)
  rw [pollArm_steady h]
  exact (if_neg h8').trans (if_neg h0)

/-- A snapshot that serves its direction, with nothing of the device pending (R181, R185 e). -/
def Clean (dir : Dir) (snap : Snapshot) : Prop :=
  Served dir snap ∧ snap.por = false ∧ snap.busy = false ∧ snap.cnc = false

/-- The only way to succeed (R173, R185 e). -/
theorem clean_of_succeed (h : pollArm cfg dir armed snap = .succeed) : Clean dir snap := by
  unfold pollArm at h
  repeat' split at h
  all_goals cases h
  all_goals simp_all [Clean, Served, Const.headerSize]

end

/-- Arm 1 in the words of the claims (R174). -/
theorem pollCount_eq_countAfter (s : State) :
    pollCount s = { s with pollIter := countAfter s s.snap } := by
  unfold pollCount countAfter
  split <;> rfl

/-- The action of the arm taken, with the count and the code updated. -/
theorem pollDecide_eq {s : State} {a : Arm} (c : PollCaller) (ha : armTaken s = a) :
    pollDecide c s = pollAct c a
      { s with pollIter := countAfter s s.snap, pollRt := armCode s.pollRt a } := by
  rw [pollDecide, pollCount_eq_countAfter, ha]
  rfl

/-- A step that answers the status exchange of a poll acts on its snapshot (R170, R173). -/
theorem step_polled {s : State} {c : PollCaller} {rx : List Byte} {a : Arm} (hh : s.host = [])
    (hp : s.phase = .statusBlock (.poll c)) (ha : s.answers = [.block rx]) (hg : GoodStatus s rx)
    (harm : pollArm s.cfg s.pollDir s.porArmed (snapshotOf s rx) = a) :
    step s = .next (pollAct c a { polled s rx with pollRt := armCode s.pollRt a }) := by
  rw [(fed_goodStatus hp hg).step hh ha, statusReturn, pollDecide_answers,
    pollDecide_eq c (a := a)]
  · rfl
  · exact harm

/-- Settles O37: each row of the table is one arm of `pollArm`, and its action the start of an exchange,
an error or the end. -/
theorem pollArmsFollowTheTable : Obligations.PollArmsFollowTheTable := by
  unfold Obligations.PollArmsFollowTheTable
  intro s p c rx hh hphase hans hgood rfl
  have acts : ∀ {a}, pollArm s.cfg s.pollDir s.porArmed (snapshotOf s rx) = a →
      step s = .next (pollAct c a { polled s rx with pollRt := armCode s.pollRt a }) :=
    step_polled hh hphase hans hgood
  have runs : ∀ code k q, Host.Outcome.next (startRun code k q)
      = (.next (exchangeStarted (runExch q code.val) k q) : Outcome) := fun code k q =>
    congrArg _ (startRun_eq code k q)
  have writes : ∀ code k q, Host.Outcome.next (startWriteStatus code k q)
      = (.next (exchangeStarted (writeStatusExch q code.val) k q) : Outcome) := fun code k q =>
    congrArg _ (startWriteStatus_eq code k q)
  refine ⟨fun hpor harmed => ?recover, fun hpor harmed => ?uncorrected, fun hpor =>
    ⟨fun hbusy q hq => ?busy, fun hbusy => ⟨fun hfirst q hq => ?first, fun hfirst =>
      ⟨fun herase q hq => ?erase, fun herase => ⟨fun hcnc q hq => ?cnc, fun hcnc =>
        ⟨fun hresponse => ?response, fun hresponse hvm hused => ?vm⟩⟩⟩⟩⟩, fun hsteady =>
    ⟨fun hdir hfree => ?noRoom, fun hdir hused => ?noHeader, fun hdir hzero height => ?badHeader,
      fun hhost hserved => ?served⟩⟩
  case recover =>
    refine (acts ((pollArm_por hpor).trans (if_pos harmed))).trans ?_
    exact congrArg _ (startPorRecover_eq (.poll c) _)
  case uncorrected =>
    exact acts ((pollArm_por hpor).trans (if_neg (by simp [harmed])))
  case busy =>
    subst hq
    exact (acts (pollArm_busy hpor hbusy)).trans (runs ..)
  case first =>
    subst hq
    exact (acts (pollArm_firstBirthday hpor hbusy hfirst)).trans (writes ..)
  case erase =>
    subst hq
    exact (acts (pollArm_masterErase hpor hbusy hfirst herase)).trans (writes ..)
  case cnc =>
    subst hq
    exact (acts (pollArm_commandNotComplete hpor hbusy hfirst herase hcnc)).trans (writes ..)
  case response =>
    exact (acts (pollArm_responseIncomplete hpor hbusy hfirst herase hcnc hresponse)).trans (runs ..)
  case vm =>
    exact (acts (pollArm_vmIncomplete hpor hbusy hfirst herase hcnc hresponse hvm hused)).trans
      (runs ..)
  case noRoom => exact acts (hdir ▸ pollArm_noRoom hsteady hfree)
  case noHeader => exact acts (hdir ▸ pollArm_noHeader hsteady hused)
  case badHeader => exact acts (hdir ▸ pollArm_badHeader hsteady hzero height)
  case served =>
    subst hhost
    exact acts (pollArm_served hsteady hserved)

/-! ### How the loop goes on (R173, R180, R182, R183) -/

/-- The top of the loop: the next iteration, or the end after the 200th (R182). -/
theorem pollNext_eq (c : PollCaller) (s : State) : pollNext c s =
    if s.pollIter < 200 then { s with pollIter := s.pollIter + 1, phase := .select (.poll c) }
    else raise c.owner ⟨.unrecoverable, .none⟩ s := by
  by_cases h : s.pollIter < 200
  · rw [if_pos h]
    exact if_neg h.not_ge
  · rw [if_neg h]
    exact if_pos (Nat.le_of_not_lt h)

/-- A step that answers the status bit of an exchange looks at it after the rest of the exchange (R203,
R204). -/
theorem step_atBit {s : State} {k : ExchCaller} {power b : Bool} (hh : s.host = [])
    (ha : s.answers = [.bit b]) (hp : AtBit s k power) :
    step s = .next (sampled k b (bitTaken s power b)) := by
  cases power with
  | false =>
    rw [(Fed.bit hp).step hh ha, sampled_answers]
    rfl
  | true =>
    rw [(Fed.powerBit hp).step hh ha, sampled_answers]
    rfl

/-- Settles O38: what each of the five exchanges of a poll returns to. -/
theorem pollGoesOnAfterItsCalls : Obligations.PollGoesOnAfterItsCalls := by
  unfold Obligations.PollGoesOnAfterItsCalls
  intro s p c power b hh ha rfl
  refine ⟨fun hb k hk hp => ?refused, fun hb => ?understood⟩
  case refused =>
    have howner : k.owner = c.owner := by
      simp only [List.mem_cons, List.not_mem_nil, or_false] at hk
      obtain rfl | rfl | rfl | rfl | rfl := hk <;> rfl
    rw [step_atBit hh ha hp, ← howner]
    exact congrArg _ (sampled_notUnderstood hb)
  case understood =>
    have returns : ∀ {k}, AtBit s k power →
        step s = .next (exchangeReturn k (bitTaken s power b)) := fun hp =>
      (step_atBit hh ha hp).trans (congrArg _ (sampled_understood hb))
    refine ⟨fun hp => ?_, fun hp => ?_, fun hp => ?_, fun hp q hq => ?_⟩
    · rw [returns hp, exchangeReturn, startRun_eq]
      rfl
    · rw [returns hp, exchangeReturn_porWrite]
      rfl
    · obtain hp | hp := hp <;> exact (returns hp).trans (congrArg _ (pollNext_eq c _))
    · subst hq
      exact (returns hp).trans (congrArg _ (pollNext_eq c _))

/-! ### A status read of a poll -/

/-- A poll whose status read was accepted, with the count and the code as the arm it takes leaves them
(R170, R174). -/
def statusTaken (c : PollCaller) (rx : List Byte) (a : Arm) (s : State) : State :=
  { s with
    phase := .statusBlock (.poll c), statusScratch := rx, snap := snapshotOf s rx
    trace := s.trace ++ statusEvents s rx, pollIter := countAfter s (snapshotOf s rx)
    pollRt := armCode s.pollRt a }

/-- The answers of a status read take a poll to the action of its arm (R173). -/
theorem drive_pollStatus {s : State} {c : PollCaller} {rx : List Byte} {a : Arm} (as : List Answer)
    (hp : s.phase = .select (.poll c)) (hg : GoodStatus s rx)
    (harm : pollArm s.cfg s.pollDir s.porArmed (snapshotOf s rx) = a) :
    drive (statusAnswers rx ++ as) s = drive as (pollAct c a (statusTaken c rx a s)) := by
  rw [drive_status as hp hg, statusReturn, pollDecide_eq c (a := a)]
  · rfl
  · exact harm

/-- A poll of the host as it begins, with `LOCK` taken (R71, R173). -/
def hostPoll (dir : Dir) (code : Int) (s : State) : State :=
  startPoll .host dir code { s with lock := true }

/-- `POLL` issued in a ready state. -/
theorem exec_poll {s : State} (dir : Dir) (code : Int) (hs : Ready s) :
    exec (.poll dir code) s = drive s.answers (hostPoll dir code s) := exec_ready rfl rfl hs rfl

/-- Settles O36: in the steady state the host's poll ends, with each of the results of arm 8. -/
theorem pollEndsInSteadyState : Obligations.PollEndsInSteadyState := by
  unfold Obligations.PollEndsInSteadyState
  intro s dir code rx rest snap r hs ha hg rfl hsteady hr
  have ends : ∃ a, pollArm s.cfg dir s.porArmed (snapshotOf s rx) = a ∧
      (∀ t : State, t.snap = snapshotOf s rx → pollAct .host a t = endOp .host r t) ∧
      ∀ rt, armCode rt a = rt := by
    obtain ⟨hserved, rfl⟩ | ⟨rfl, hf, rfl⟩ | ⟨rfl, hu, rfl⟩ | ⟨rfl, h0, h8, rfl⟩ := hr
    · exact ⟨_, pollArm_served hsteady hserved, fun t ht => by rw [pollAct, pollReturn, ht],
        fun _ => rfl⟩
    · exact ⟨_, pollArm_noRoom hsteady hf, fun _ _ => rfl, fun _ => rfl⟩
    · exact ⟨_, pollArm_noHeader hsteady hu, fun _ _ => rfl, fun _ => rfl⟩
    · exact ⟨_, pollArm_badHeader hsteady h0 h8, fun _ _ => rfl, fun _ => rfl⟩
  obtain ⟨a, harm, hact, hcode⟩ := ends
  have hdrive : drive (statusAnswers rx ++ rest) (hostPoll dir code s)
      = drive rest (pollAct .host a (statusTaken .host rx a (hostPoll dir code s))) :=
    drive_pollStatus rest rfl hg harm
  rw [exec_poll dir code hs, ha, hdrive, hact _ rfl, drive_ended hs r rest rfl, statusTaken, hcode]
  rfl

/-! ### What a poll of the host gives (R181, R185 e) -/

/-- After a move of a poll of the host in a direction: it waits for an answer, or has ended, and a value
it gives is the snapshot in `SNAP`, which serves the direction. -/
inductive PollYields (dir : Dir) (t : State) : Prop
  | waits (poll : t.phase.poll? = some .host) (hdir : t.pollDir = dir)
  | ends (idle : t.phase = .idle)
    (given : ∀ v, t.result = some (.ok v) → v = .snapshot t.snap ∧ Clean dir t.snap)

section
variable {dir : Dir}

theorem endOp_err_yields (o : Owner) (e : Error) (s : State) :
    PollYields dir (endOp o (.err e) s) := .ends rfl nofun

variable {s : State} (hd : s.pollDir = dir)
include hd

theorem pollNext_yields : PollYields dir (pollNext .host s) := by
  rw [pollNext_eq]
  split
  · exact .waits rfl hd
  · exact endOp_err_yields ..

theorem pollAct_yields {a : Arm} (ha : a = .succeed → Clean dir s.snap) :
    PollYields dir (pollAct .host a s) := by
  cases a with
  | succeed =>
    refine .ends rfl fun v hv => ?_
    cases hv
    exact ⟨rfl, ha rfl⟩
  | fail e => exact endOp_err_yields ..
  | porRecover | busy | firstBirthday | masterErase | commandNotComplete | responseIncomplete
  | vmIncomplete => exact .waits rfl hd

theorem pollDecide_yields : PollYields dir (pollDecide .host s) := by
  rw [pollDecide_eq .host rfl]
  refine pollAct_yields ?_ fun ha => ?_
  · exact hd
  · exact hd ▸ clean_of_succeed ha

theorem statusAnswered_yields (rx : List Byte) :
    PollYields dir (statusAnswered (.poll .host) rx s) := by
  unfold statusAnswered
  dsimp only
  split
  · exact pollDecide_yields (s := { s with statusScratch := rx, snap := _ }) hd
  · exact endOp_err_yields ..

theorem exchangeReturn_yields {k : ExchCaller} (hk : k.poll? = some .host) :
    PollYields dir (exchangeReturn k s) := by
  cases k with
  | pollWrite c => cases hk; exact .waits rfl hd
  | pollRun c => cases hk; exact pollNext_yields hd
  | pollBump c =>
    cases hk
    exact pollNext_yields (s := { s with minReadRt := _ }) hd
  | porWrite p =>
    cases p <;> cases hk
    exact .waits rfl hd
  | porRun p =>
    cases p <;> cases hk
    exact pollNext_yields hd
  | _ => cases hk

theorem sampled_yields {k : ExchCaller} (hk : k.poll? = some .host) (b : Bool) :
    PollYields dir (sampled k b s) := by
  unfold sampled
  split
  · rw [owner_of_poll hk]
    exact endOp_err_yields ..
  · exact exchangeReturn_yields hd hk

/-- Every answer that a poll of the host takes leaves it waiting or ends it so. -/
theorem Fed.yields {a : Answer} {t : State} (h : Fed s a t) (hp : s.phase.poll? = some .host) :
    PollYields dir t := by
  have status : ∀ {c : StatusCaller}, c.poll? = some .host → c = .poll .host := fun {c} hc => by
    cases c <;> cases hc
    rfl
  cases h with
  | speed hs =>
    rw [hs] at hp
    cases hp
  | @select _ ok hs =>
    rw [hs] at hp
    cases ok <;> exact .waits hp hd
  | @selectAgain _ ok hs =>
    rw [hs] at hp
    obtain rfl := status hp
    cases ok
    · exact endOp_err_yields ..
    · exact .waits rfl hd
  | status hs =>
    rw [hs] at hp
    obtain rfl := status hp
    exact statusAnswered_yields (s := emit _ s) hd _
  | statusFail hs =>
    rw [hs] at hp
    obtain rfl := status hp
    exact endOp_err_yields ..
  | block hs =>
    refine .waits ?_ hd
    obtain hs | hs := hs <;> rw [hs] at hp <;>
    · simp only [blockAnswered]
      split <;> exact hp
  | blockFail hs | smart hs =>
    rw [hs] at hp
    exact .waits hp hd
  | retryFail hs =>
    rw [hs] at hp
    rw [owner_of_poll hp]
    exact endOp_err_yields ..
  | powerBit hs | bit hs =>
    rw [hs] at hp
    exact sampled_yields (s := emit _ s) hd hp _

end

/-- A poll of the host that goes on. -/
theorem resume_yields {s t : State} (hp : s.phase.poll? = some .host) (h : resume s = .next t) :
    PollYields s.pollDir t := by
  refine drive_keeps (P := PollYields s.pollDir) (fun a u v hu hi hf => ?_) (fun u l hu => ?_) _ s t
    (.waits hp rfl) h
  · cases hu with
    | waits hp hd => exact (feed_fed hi hf).yields hd hp
    | ends hidle => exact absurd hidle hi
  · cases hu with
    | waits hp hd => exact .waits hp hd
    | ends hidle hgiven => exact .ends hidle hgiven

/-- Settles O41: every answer a poll takes keeps that what it gives serves its direction. -/
theorem successfulPollIsServed : Obligations.SuccessfulPollIsServed := by
  unfold Obligations.SuccessfulPollIsServed
  intro s s' dir v hrun hidle hv
  have yields : PollYields dir s' := by
    obtain ⟨⟨hlock, hphase⟩, code, h⟩ | ⟨hh, hp, rfl, h⟩ := hrun
    · rw [exec_locked rfl, issueLocked_ready rfl hlock hphase] at h
      exact resume_yields (s := hostPoll dir code s) rfl h
    · exact resume_yields hp (step_resumes hh h)
  cases yields with
  | waits hp => simp [hidle, Phase.poll?] at hp
  | ends _ hgiven => exact hgiven v hv

/-! ### What the iterations of a poll send and wait (R176, R178, R182) -/

section
variable (es fs : List Event)

@[simp] theorem sent_append : sent (es ++ fs) = sent es ++ sent fs := List.filterMap_append

@[simp] theorem sleeps_append : sleeps (es ++ fs) = sleeps es ++ sleeps fs := List.filterMap_append

end

/-- An exchange at the first try puts its frame on the bus (R200). -/
theorem sent_exchangeEvents (s : State) (x : Exch) {r : Reply} (hr : r.retried = false) :
    sent (exchangeEvents s x r) = [frameSent s x] := by
  have hw : sent (warnings s) = [] := by
    unfold warnings
    split <;> rfl
  have hs : sent (sampleEvents x.power x.ms r.smart r.bit) = [] := by
    unfold sampleEvents
    split <;> rfl
  simp only [exchangeEvents, hr, sent_append, hw, hs]
  rfl

/-- It waits in power mode only (R203, R204). -/
theorem sleeps_exchangeEvents (s : State) (x : Exch) {r : Reply} (hr : r.retried = false) :
    sleeps (exchangeEvents s x r) = x.waits := by
  have hw : sleeps (warnings s) = [] := by
    unfold warnings
    split <;> rfl
  have hs : sleeps (sampleEvents x.power x.ms r.smart r.bit) = x.waits := by
    unfold sampleEvents Exch.waits
    split <;> rfl
  simp only [exchangeEvents, hr, sleeps_append, hw, hs]
  rfl

/-- What the environment does in an exchange that succeeds at the first try and is understood. -/
def Reply.Understood (r : Reply) (s : State) (x : Exch) : Prop :=
  r.fits x ∧ r.retried = false ∧ r.bit ≠ s.cfg.notUnderstoodBit

/-- What a poll in a direction, issued in `s`, has done when it is in `t`: its code, the byte strings
sent and the waits made since. -/
structure Polled (s : State) (dir : Dir) (t : State) (code : Code) (tx : List (List Byte))
    (ms : List Nat) : Prop where
  config : SameConfig s t
  dir : t.pollDir = dir
  code : t.pollRt = code
  events : ∃ es, t.trace = s.trace ++ es ∧ sent es = tx ∧ sleeps es = ms

section
variable {s t : State} {dir : Dir} {code : Code} {tx : List (List Byte)} {ms : List Nat}

theorem SameConfig.goodStatus (h : SameConfig s t) {rx : List Byte} (hg : GoodStatus s rx) :
    GoodStatus t rx := by
  unfold GoodStatus
  rwa [h.cfg, h.corr]

theorem SameConfig.snapshotOf (h : SameConfig s t) (rx : List Byte) :
    snapshotOf t rx = Machine.snapshotOf s rx := by
  unfold Machine.snapshotOf
  rw [h.cfg]

theorem SameConfig.runExch (h : SameConfig s t) (n : Nat) : runExch t n = Machine.runExch s n := by
  simp only [Machine.runExch, waitOf, h.cfg, h.tIncr, h.tBase]

theorem SameConfig.writeStatusExch (h : SameConfig s t) (n : Nat) :
    writeStatusExch t n = Machine.writeStatusExch s n := by
  simp only [Machine.writeStatusExch, h.cfg]

theorem SameConfig.frameSent (h : SameConfig s t) (x : Exch) :
    frameSent t x = Machine.frameSent s x := by
  simp only [Machine.frameSent, h.cfg, h.addr]

/-- More of the same poll. -/
theorem Polled.append (h : Polled s dir t code tx ms) {u : State} {code' : Code} {es : List Event}
    (hc : SameConfig t u) (hd : u.pollDir = t.pollDir) (hcode : u.pollRt = code')
    (ht : u.trace = t.trace ++ es) : Polled s dir u code' (tx ++ sent es) (ms ++ sleeps es) := by
  obtain ⟨⟨hcfg, haddr, hcorr, hbase, hincr, hhost⟩, hdir, -, ds, htrace, hsent, hsleeps⟩ := h
  refine ⟨⟨hc.cfg.trans hcfg, hc.addr.trans haddr, hc.corr.trans hcorr, hc.tBase.trans hbase,
    hc.tIncr.trans hincr, hc.host.trans hhost⟩, hd.trans hdir, hcode, ds ++ es, ?_, ?_, ?_⟩
  · rw [ht, htrace, List.append_assoc]
  · rw [sent_append, hsent]
  · rw [sleeps_append, hsleeps]

/-- A status read whose reply is accepted leads to the action of the arm. -/
theorem Polled.status (h : Polled s dir t code tx ms) (hp : t.phase = .select (.poll .host))
    {rx : List Byte} {a : Arm} (hg : GoodStatus s rx)
    (harm : ∀ armed, pollArm s.cfg dir armed (snapshotOf s rx) = a) :
    ∃ u, (∀ as, drive (statusAnswers rx ++ as) t = drive as (pollAct .host a u)) ∧
      Polled s dir u (armCode code a) (tx ++ [statusFrame s.cfg]) ms ∧
      u.pollIter = countAfter t (snapshotOf s rx) ∧ u.snap = snapshotOf s rx := by
  have hsnap := h.config.snapshotOf rx
  have harm' : pollArm t.cfg t.pollDir t.porArmed (snapshotOf t rx) = a := by
    rw [h.config.cfg, h.dir, hsnap]
    exact harm _
  refine ⟨_, fun as => drive_pollStatus as hp (h.config.goodStatus hg) harm', ?_, ?_, hsnap⟩
  · have hsent : sent (statusEvents t rx) = [statusFrame s.cfg] := by
      rw [← h.config.cfg]
      rfl
    rw [← hsent, ← List.append_nil ms, ← h.code]
    exact h.append ⟨rfl, rfl, rfl, rfl, rfl, rfl⟩ rfl rfl rfl
  · rw [← hsnap]
    rfl

/-- An exchange of the poll, at the first try and understood. -/
theorem Polled.exchange (h : Polled s dir t code tx ms) {x : Exch} {r : Reply} (k : ExchCaller)
    (hr : r.Understood s x) :
    (∀ as, drive (exchangeAnswers x r ++ as) (exchangeStarted x k t)
        = drive as (exchangeReturn k (exchanged x r k t))) ∧
      Polled s dir (exchanged x r k t) code (tx ++ [frameSent s x]) (ms ++ x.waits) := by
  obtain ⟨hfits, hfirst, hbit⟩ := hr
  refine ⟨fun as => drive_understood k as hfits (h.config.cfg ▸ hbit), ?_⟩
  rw [← h.config.frameSent, ← sent_exchangeEvents t x hfirst, ← sleeps_exchangeEvents t x hfirst]
  exact h.append ⟨rfl, rfl, rfl, rfl, rfl, rfl⟩ rfl h.code rfl

/-- A run of the poll's code, which leads to the top of the loop. -/
theorem Polled.run (h : Polled s dir t code tx ms) {r : Reply}
    (hr : r.Understood s (runExch s code.val)) :
    ∃ u, (∀ as, drive (exchangeAnswers (runExch s code.val) r ++ as)
        (startRun code (.pollRun .host) t) = drive as (pollNext .host u)) ∧
      Polled s dir u code (tx ++ [frameSent s (runExch s code.val)]) (ms ++ [waitOf s code.val]) ∧
      u.pollIter = t.pollIter := by
  rw [startRun_eq, h.config.runExch]
  obtain ⟨hdrive, hpolled⟩ := h.exchange (.pollRun .host) hr
  exact ⟨_, hdrive, hpolled, rfl⟩

/-- A write status of the poll's code, not in power mode, which leads to its run. -/
theorem Polled.writeStatus (h : Polled s dir t code tx ms) {r : Reply}
    (hpower : s.cfg.pwrWriteStatus = false) (hr : r.Understood s (writeStatusExch s code.val)) :
    ∃ u, (∀ as, drive (exchangeAnswers (writeStatusExch s code.val) r ++ as)
        (startWriteStatus code (.pollWrite .host) t) = drive as (startRun code (.pollRun .host) u)) ∧
      Polled s dir u code (tx ++ [frameSent s (writeStatusExch s code.val)]) ms ∧
      u.pollIter = t.pollIter := by
  obtain ⟨hdrive, hpolled⟩ := h.exchange (.pollWrite .host) hr
  have hwaits : (writeStatusExch s code.val).waits = [] := if_neg (by simp [writeStatusExch, hpower])
  rw [hwaits, List.append_nil] at hpolled
  refine ⟨_, fun as => ?_, hpolled, rfl⟩
  rw [startWriteStatus_eq, h.config.writeStatusExch, hdrive, exchangeReturn, hpolled.code]

/-- The next iteration, before the 200th (R182). -/
theorem Polled.next (h : Polled s dir t code tx ms) (hi : t.pollIter < 200) :
    (pollNext .host t).phase = .select (.poll .host) ∧ Polled s dir (pollNext .host t) code tx ms ∧
      (pollNext .host t).pollIter = t.pollIter + 1 := by
  rw [pollNext_eq, if_pos hi]
  obtain ⟨hconfig, hdir, hcode, hevents⟩ := h
  exact ⟨rfl, ⟨{ hconfig with }, hdir, hcode, hevents⟩, rfl⟩

end

/-- A poll that has just begun has done nothing yet. -/
theorem hostPoll_polled (dir : Dir) (code : Int) (s : State) :
    Polled s dir (hostPoll dir code s) (clamp15 code) [] [] :=
  ⟨⟨rfl, rfl, rfl, rfl, rfl, rfl⟩, rfl, rfl, [], (List.append_nil _).symm, rfl, rfl⟩

/-! ### A device that does not complete its command (R178) -/

/-- One status of "command not complete": the code is raised, written and waited. -/
theorem Polled.escalate {s t : State} {dir : Dir} {code up : Code} {m n : Nat} {tx : List (List Byte)}
    {ms : List Nat} {rx : List Byte} {w r : Reply} (h : Polled s dir t code tx ms)
    (hp : t.phase = .select (.poll .host)) (hn : t.pollIter ≤ n) (hlimit : n < 200)
    (hup : armCode code .commandNotComplete = up) (hm : up.val = m) (hg : GoodStatus s rx)
    (harm : ∀ armed, pollArm s.cfg dir armed (snapshotOf s rx) = .commandNotComplete)
    (hpower : s.cfg.pwrWriteStatus = false) (hw : w.Understood s (writeStatusExch s m))
    (hr : r.Understood s (runExch s m)) :
    ∃ u, (∀ as, drive (statusAnswers rx ++ (exchangeAnswers (writeStatusExch s m) w
        ++ (exchangeAnswers (runExch s m) r ++ as))) t = drive as u) ∧
      u.phase = .select (.poll .host) ∧ u.pollIter ≤ n + 1 ∧
      Polled s dir u up (tx ++ [statusFrame s.cfg] ++ [frameSent s (writeStatusExch s m)]
        ++ [frameSent s (runExch s m)]) (ms ++ [waitOf s m]) := by
  subst hm
  obtain ⟨u, hu, hstatus, hiter, -⟩ := h.status hp hg harm
  rw [hup] at hstatus
  have hact : pollAct .host .commandNotComplete u = startWriteStatus up (.pollWrite .host) u := by
    rw [pollAct, hstatus.code]
  obtain ⟨v, hv, hwritten, hiter'⟩ := hstatus.writeStatus hpower hw
  obtain ⟨x, hx, hran, hiter''⟩ := hwritten.run hr
  have hcount : countAfter t (snapshotOf s rx) ≤ t.pollIter := by
    unfold countAfter
    split
    · exact Nat.zero_le _
    · exact le_refl _
  have hle : x.pollIter ≤ n := by omega
  obtain ⟨hphase, hnext, hsucc⟩ := hran.next (by omega)
  exact ⟨_, fun as => by rw [hu, hact, hv, hx], hphase, by omega, hnext⟩

/-- Settles O40: three escalations from the code 0, then a status read that is served. -/
theorem commandNotCompleteEscalates : Obligations.CommandNotCompleteEscalates := by
  unfold Obligations.CommandNotCompleteEscalates
  intro s dir code rx clean w1 w2 w3 r1 r2 r3 rest hs hcode hg hpor hbusy hfirst herase hcnc hgc
    hsteady hserved hw1 hw2 hw3 hr1 hr2 hr3 hall hpower ha
  simp only [List.forall_mem_cons, List.not_mem_nil, false_imp_iff, implies_true, and_true] at hall
  obtain ⟨hw1', hw2', hw3', hr1', hr2', hr3'⟩ := hall
  have hclamp : clamp15 code = 0 := Fin.ext (by rw [clamp15_val]; omega)
  have begun : Polled s dir (hostPoll dir code s) 0 [] [] := hclamp ▸ hostPoll_polled dir code s
  have hcncArm : ∀ armed, pollArm s.cfg dir armed (snapshotOf s rx) = .commandNotComplete :=
    fun _ => pollArm_commandNotComplete hpor hbusy hfirst herase hcnc
  obtain ⟨t, ht, hpt, hit, once⟩ :=
    begun.escalate (up := 2) (m := 2) rfl (le_refl 1) (by decide) rfl rfl hg hcncArm hpower
      ⟨hw1, hw1'⟩ ⟨hr1, hr1'⟩
  obtain ⟨u, hu, hpu, hiu, twice⟩ :=
    once.escalate (up := 4) (m := 4) hpt hit (by decide) rfl rfl hg hcncArm hpower
      ⟨hw2, hw2'⟩ ⟨hr2, hr2'⟩
  obtain ⟨v, hv, hpv, -, thrice⟩ :=
    twice.escalate (up := 8) (m := 8) hpu hiu (by decide) rfl rfl hg hcncArm hpower
      ⟨hw3, hw3'⟩ ⟨hr3, hr3'⟩
  obtain ⟨x, hx, ⟨-, -, hxcode, es, htrace, hsent, hsleeps⟩, -, hsnap⟩ :=
    thrice.status hpv hgc fun _ => pollArm_served hsteady hserved
  refine ⟨{ endOp .host (.ok (.snapshot x.snap)) x with answers := rest }, es, ?_, ?_, hxcode, rfl,
    htrace, hsent, hsleeps⟩
  · simp only [List.append_assoc] at ha
    rw [exec_poll dir code hs, ha, ht, hu, hv, hx]
    exact drive_idle rfl rest
  · exact congrArg (fun snap => some (Result.ok (.snapshot snap))) hsnap

/-! ### A device that is always busy (R176, R182) -/

/-- The poll's code after `j` busy statuses (R176). -/
def busyCode (c : Code) (j : Nat) : Code := sat15 (c.val + 6 * j)

theorem busyCode_zero (c : Code) : busyCode c 0 = c := by
  have := c.isLt
  ext
  rw [busyCode, sat15_val]
  omega

theorem armCode_busyCode (c : Code) (j : Nat) : armCode (busyCode c j) .busy = busyCode c (j + 1) := by
  ext
  simp only [armCode, busyCode, sat15_val, Const.busyBump]
  omega

/-- Three busy statuses saturate the code. -/
theorem busyCode_saturated (c : Code) {j : Nat} (h : 3 ≤ j) : busyCode c j = 15 := by
  ext
  rw [busyCode, sat15_val]
  exact Nat.min_eq_right (by omega)

/-- The answers of one iteration with a busy device. -/
def busyAnswers (rx : List Byte) (r : Reply) : List Answer :=
  [.selected true, .block rx, .block r.rx, .smart r.smart, .bit r.bit]

/-- What `j` iterations send. -/
def busySent (s : State) (j : Nat) : List (List Byte) :=
  (List.replicate j [statusFrame s.cfg, frameSent s (runExch s 0)]).flatten

/-- What `j` iterations that begin with code `c` wait. -/
def busyWaits (s : State) (c : Code) (j : Nat) : List Nat :=
  (List.range j).map fun i => waitOf s (busyCode c (i + 1)).val

theorem busySent_succ (s : State) (j : Nat) : busySent s (j + 1)
    = busySent s j ++ [statusFrame s.cfg] ++ [frameSent s (runExch s 0)] := by
  simp [busySent, List.replicate_succ']

theorem busyWaits_succ (s : State) (c : Code) (j : Nat) :
    busyWaits s c (j + 1) = busyWaits s c j ++ [waitOf s (busyCode c (j + 1)).val] := by
  simp [busyWaits, List.range_succ]

theorem busyWaits_length (s : State) (c : Code) (j : Nat) : (busyWaits s c j).length = j := by
  simp [busyWaits]

/-- After three iterations every wait is the longest. -/
theorem busyWaits_drop (s : State) (c : Code) (j : Nat) :
    (busyWaits s c j).drop 3 = List.replicate (j - 3) (waitOf s 15) := by
  refine List.eq_replicate_iff.2 ⟨by rw [List.length_drop, busyWaits_length], fun w hw => ?_⟩
  obtain ⟨i, hi, rfl⟩ := List.mem_iff_getElem.1 hw
  simp only [busyWaits, List.getElem_drop, List.getElem_map, List.getElem_range]
  rw [busyCode_saturated c (by omega)]
  rfl

section
variable {s t : State} {dir : Dir} {c : Code} {j : Nat} {rx : List Byte} {r : Reply}
variable (hg : GoodStatus s rx) (hpor : (snapshotOf s rx).por = false)
  (hbusy : (snapshotOf s rx).busy = true) (hsub : (snapshotOf s rx).sub ≠ s.cfg.scNeedsMoreTime)
  (hr : r.Understood s (runExch s 0))
include hg hpor hbusy hsub hr

/-- One more iteration: the status read and the run with the raised code. -/
theorem Polled.busyRound (h : Polled s dir t (busyCode c j) (busySent s j) (busyWaits s c j))
    (hp : t.phase = .select (.poll .host)) :
    ∃ u, (∀ as, drive (busyAnswers rx r ++ as) t = drive as (pollNext .host u)) ∧
      Polled s dir u (busyCode c (j + 1)) (busySent s (j + 1)) (busyWaits s c (j + 1)) ∧
      u.pollIter = t.pollIter := by
  obtain ⟨u, hu, hstatus, hiter, -⟩ := h.status hp hg fun _ => pollArm_busy hpor hbusy
  rw [armCode_busyCode] at hstatus
  obtain ⟨v, hv, hran, hiter'⟩ := hstatus.run hr
  have hact : pollAct .host .busy u = startRun (busyCode c (j + 1)) (.pollRun .host) u := by
    rw [pollAct, hstatus.code]
  have hanswers : busyAnswers rx r
      = statusAnswers rx ++ exchangeAnswers (runExch s (busyCode c (j + 1)).val) r := by
    rw [exchangeAnswers, hr.2.1]
    rfl
  refine ⟨v, fun as => ?_, ?_, ?_⟩
  · rw [hanswers, List.append_assoc, hu, hact, hv]
  · rw [busySent_succ, busyWaits_succ]
    exact hran
  · rw [hiter', hiter, countAfter, if_neg]
    rwa [h.config.cfg]

/-- The first `j` of 200 iterations. -/
theorem drive_busyRounds (code : Int) (rest : List Answer) (hj : j < 200) (m : Nat) :
    ∃ t, drive ((List.replicate (m + j) (busyAnswers rx r)).flatten ++ rest) (hostPoll dir code s)
        = drive ((List.replicate m (busyAnswers rx r)).flatten ++ rest) t ∧
      Polled s dir t (busyCode (clamp15 code) j) (busySent s j) (busyWaits s (clamp15 code) j) ∧
      t.phase = .select (.poll .host) ∧ t.pollIter = j + 1 := by
  induction j generalizing m with
  | zero =>
    refine ⟨_, rfl, ?_, rfl, rfl⟩
    rw [busyCode_zero]
    exact hostPoll_polled dir code s
  | succ j ih =>
    obtain ⟨t, ht, hpolled, hphase, hiter⟩ := ih (by omega) (m + 1)
    obtain ⟨u, hu, hround, hiter'⟩ := hpolled.busyRound hg hpor hbusy hsub hr hphase
    obtain ⟨hphase', hnext, hsucc⟩ := hround.next (by omega)
    refine ⟨_, ?_, hnext, hphase', by omega⟩
    have hshift : m + (j + 1) = m + 1 + j := by omega
    rw [hshift, ht, List.replicate_succ, List.flatten_cons, List.append_assoc, hu]

end

/-- Settles O39: 199 iterations, and a last one at whose end the count is 200. -/
theorem alwaysBusyFailsAfter200 : Obligations.AlwaysBusyFailsAfter200 := by
  unfold Obligations.AlwaysBusyFailsAfter200
  intro s dir code n rx frx smart b rest hs ha hn hg hpor hbusy hsub hfrx hb
  obtain ⟨r, hrdef⟩ : ∃ r : Reply, r = ⟨false, frx, smart, b⟩ := ⟨_, rfl⟩
  have hr : r.Understood s (runExch s 0) := hrdef ▸ ⟨hfrx, rfl, hb⟩
  obtain ⟨m, rfl⟩ : ∃ m, n = m + 1 + 199 := ⟨n - 200, by omega⟩
  have ha' : s.answers = (List.replicate (m + 1 + 199) (busyAnswers rx r)).flatten ++ rest := hrdef ▸ ha
  obtain ⟨t, ht, hpolled, hphase, hiter⟩ :=
    drive_busyRounds (dir := dir) (j := 199) hg hpor hbusy hsub hr code rest (by decide) (m + 1)
  obtain ⟨u, hu, hround, hiter'⟩ := hpolled.busyRound hg hpor hbusy hsub hr hphase
  have hlast : u.pollIter = 200 := by rw [hiter', hiter]
  have hend : pollNext .host u = endOp .host (.err ⟨.unrecoverable, .none⟩) u := by
    rw [pollNext_eq, hlast]
    rfl
  obtain ⟨-, -, hcode, es, htrace, hsent, hsleeps⟩ := hround
  refine ⟨{ endOp .host (.err ⟨.unrecoverable, .none⟩) u with
      answers := (List.replicate m (busyAnswers rx r)).flatten ++ rest }, es, ?_, rfl, rfl, rfl, hlast,
    hcode.trans (busyCode_saturated _ (by decide)), htrace, hsent, ?_, ?_⟩
  · rw [exec_poll dir code hs, ha', ht, List.replicate_succ, List.flatten_cons, List.append_assoc, hu,
      hend]
    exact drive_idle rfl _
  · rw [hsleeps, busyWaits_length]
  · rw [hsleeps, busyWaits_drop]

end Sys2Proof.Machine

/-! SUPPORT. Proofs of the family 44_command_framer: the operations of one exchange from their issue to
their end, understood or failed, and their frame. -/

namespace Sys2Proof.Machine

/-! ### How an operation of one exchange begins (R88, R93, R172, R206 to R212) -/

/-- A clamped operand is the run-time code it clamps to (R87 e). -/
theorem clamped_eq (code : Int) : clamped code = (clamp15 code).val := (clamp15_val code).symm

section
variable {i : Instr} {s : State} {x : Exch}

/-- An operation of one exchange begins as that exchange: of the host if it takes `LOCK`, of a caller that
holds it if it is a wire command (log 15). -/
theorem startOf_framed (hx : framed s i = some x) :
    (locks i = true ∧ ∃ use, startOf i (begun i s) = exchangeStarted x (.host use) (begun i s)) ∨
    (locks i = false ∧ insideOf i = true ∧
      startOf i (begun i s) = exchangeStarted x .wire (begun i s)) := by
  cases i with
  | writestatus code | run code | interrupt code =>
    rw [framed, clamped_eq] at hx
    cases hx
    exact .inl ⟨rfl, _, startExchange_eq ..⟩
  | exchange | devreset | writeheader | readheader | writedata | readdata =>
    cases hx
    exact .inl ⟨rfl, _, startExchange_eq ..⟩
  | wireWriteHeader | wireReadHeader | wireWriteData | wireReadData | wireRun | wireInterrupt
  | wireReset | wireWriteStatus =>
    cases hx
    exact .inr ⟨rfl, rfl, startExchange_eq ..⟩
  | _ => cases hx

/-- Operation `i`, issued in `s`, is the exchange `x` of caller `k` and nothing else, run on the answers
at hand; its end leaves `LOCK` as it found it (R31, R71). -/
structure RunsExchange (i : Instr) (s : State) (x : Exch) (k : ExchCaller) : Prop where
  run : exec i s = resume (exchangeStarted x k (begun i s))
  whole : (∃ use, k = .host use) ∨ k = .wire
  lock : lockAfter k.owner (begun i s).lock = s.lock

section
variable {k : ExchCaller}

/-- Such an operation takes the answers that are at hand. -/
theorem RunsExchange.exec_eq (h : RunsExchange i s x k) {as : List Answer} (ha : s.answers = as) :
    exec i s = drive as (exchangeStarted x k (begun i s)) := h.run.trans (resume_eq ha)

/-- Its end leaves the phase and the `LOCK` that it was issued in, and the answers that it did not use
(R31, R250). -/
theorem RunsExchange.drive_end (h : RunsExchange i s x k) (hp : s.phase = .idle) (result : Result)
    (rest : List Answer) {t : State} (ht : t.lock = (begun i s).lock) :
    drive rest (endOp k.owner result t) = .next { t with
      result := some result, phase := s.phase, lock := s.lock, answers := rest } := by
  rw [drive_idle rfl, hp, ← h.lock, ← ht]
  rfl

/-- An error of its exchange ends it (R250). -/
theorem RunsExchange.raise_eq (h : RunsExchange i s x k) (e : Error) (t : State) :
    raise k.owner e t = endOp k.owner (.err e) t := by
  obtain ⟨use, rfl⟩ | rfl := h.whole <;> rfl

end

/-- A host operation that begins as an exchange of its own, in a ready state (R71). -/
theorem runsExchange_host {use : ReplyUse} (hl : locks i = true) (hwf : i.wf = true) (hs : Ready s)
    (hstart : startOf i (begun i s) = exchangeStarted x (.host use) (begun i s)) :
    RunsExchange i s x (.host use) := by
  obtain ⟨hlock, hphase⟩ := hs
  refine ⟨?_, .inl ⟨use, rfl⟩, hlock.symm⟩
  rw [exec_locked hl, issueLocked_ready hwf hlock hphase, ← hstart, begun, hl, Bool.or_true]

/-- A wire command that does, in IDLE (log 15). -/
theorem runsExchange_wire (hl : locks i = false) (hi : insideOf i = true) (hwf : i.wf = true)
    (hp : s.phase = .idle) (hstart : startOf i (begun i s) = exchangeStarted x .wire (begun i s)) :
    RunsExchange i s x .wire := by
  have hbegun : begun i s = s := by rw [begun, hl, Bool.or_false]
  refine ⟨?_, .inr rfl, congrArg State.lock hbegun⟩
  rw [exec_inside hi, issueInside_idle hwf hp, ← hstart, hbegun]

/-- So runs every operation of one exchange whose operand is of its type, where it can begin. -/
theorem framed_runs (hwf : i.wf = true) (hx : framed s i = some x) (hp : s.phase = .idle)
    (hlock : locks i = true → s.lock = false) : ∃ k, RunsExchange i s x k := by
  obtain ⟨hl, use, hstart⟩ | ⟨hl, hi, hstart⟩ := startOf_framed hx
  · exact ⟨.host use, runsExchange_host hl hwf ⟨hlock hl, hp⟩ hstart⟩
  · exact ⟨.wire, runsExchange_wire hl hi hwf hp hstart⟩

/-- A host operation of one exchange, understood by the device, ends with the value that its reply use
takes from the replies (R89, R94). -/
theorem completesAs_host {use : ReplyUse} {v : List Byte → Value} (hl : locks i = true)
    (hwf : i.wf = true) (hs : Ready s)
    (hstart : startOf i (begun i s) = exchangeStarted x (.host use) (begun i s))
    (hv : ∀ r t, replyValue use (exchanged x r (.host use) t) = v r.rx) : CompletesAs i s x v := by
  intro r rest ha hr hb
  have hruns := runsExchange_host hl hwf hs hstart
  have hbit : r.bit ≠ (begun i s).cfg.notUnderstoodBit := hb
  rw [hruns.exec_eq ha, drive_understood _ _ hr hbit, exchangeReturn, hv]
  exact hruns.drive_end hs.2 _ rest rfl

end

/-! ### The operations understood -/

/-- Settles O28: the exchange begun and ended by the host, and each call as the answer that it takes. -/
theorem exchangeHandsBackReplies : Obligations.ExchangeHandsBackReplies := by
  unfold Obligations.ExchangeHandsBackReplies
  refine ⟨fun s cmdbytes rel power ms hs h1 hm hrel => ?whole, fun s k tx hh htx => ?calls⟩
  case whole =>
    have hwf : (Instr.exchange cmdbytes rel power ms).wf = true := by
      simp [Instr.wf, cmdFits, relFits, Const.maxBlock, h1, hm, hrel]
    exact completesAs_host rfl hwf hs (startExchange_eq ..) fun _ _ => rfl
  case calls =>
    rw [← frameOut_eq] at htx
    subst htx
    refine ⟨fun rx hp ha hl => ?_, fun hp ha => ?_, fun smart hp ha => ?_⟩
    · exact (Fed.block hp hl).step hh ha
    · exact (Fed.blockFail hp).step hh ha
    · exact (Fed.smart hp).step hh ha

/-- Settles O29: the wait is that of the clamped code when the operation is issued. -/
theorem runAndInterruptWait : Obligations.RunAndInterruptWait := by
  unfold Obligations.RunAndInterruptWait
  intro s code hs
  rw [← clamp15_val]
  exact ⟨completesAs_host rfl rfl hs (startExchange_eq ..) fun _ _ => rfl,
    completesAs_host rfl rfl hs (startExchange_eq ..) fun _ _ => rfl⟩

/-- Settles O30: each begins as the exchange of its frame, whose replies nobody reads. -/
theorem controlAndWriteOperations : Obligations.ControlAndWriteOperations := by
  unfold Obligations.ControlAndWriteOperations
  intro s hs
  refine ⟨completesAs_host rfl rfl hs (startExchange_eq ..) fun _ _ => rfl, fun code => ?_,
    fun h hh => ?_, fun d h1 hm => ?_⟩
  · rw [← clamp15_val]
    exact completesAs_host rfl rfl hs (startExchange_eq ..) fun _ _ => rfl
  · exact completesAs_host rfl (decide_eq_true hh) hs (startExchange_eq ..) fun _ _ => rfl
  · have hwf : (Instr.writedata d).wf = true := by
      simp [Instr.wf, dataFits, Const.maxBlock, h1, hm]
    exact completesAs_host rfl hwf hs (startExchange_eq ..) fun _ _ => rfl

/-- The bytes that answered the all-ones body of a read are reply bytes 10 and on (R94, R210, R212). -/
theorem bodyReply_exchanged {x : Exch} {cmd : Byte} {n : Nat} (hx : x.cmd = cmd :: List.replicate n 0xFF)
    (r : Reply) (k : ExchCaller) (s : State) :
    bodyReply (cReply (exchanged x r k s)) n = (r.rx.drop 10).take n :=
  bodyReply_commandReply (by simp [exchanged, hx])

/-- Settles O31: the value is the body of the command reply. -/
theorem readOperations : Obligations.ReadOperations := by
  unfold Obligations.ReadOperations
  intro s hs
  refine ⟨?_, fun n hn => ?_⟩
  · exact completesAs_host rfl rfl hs (startExchange_eq ..) fun r t =>
      congrArg Value.bytes (bodyReply_exchanged rfl r _ t)
  · exact completesAs_host rfl (decide_eq_true hn) hs (startExchange_eq ..) fun r t =>
      congrArg Value.bytes (bodyReply_exchanged rfl r _ t)

/-! ### The operations failed, and their frame -/

/-- Settles O34: either failure raises its error to the owner of the exchange, and an operation that is
the whole of its exchange ends with it. -/
theorem framedOperationsFail : Obligations.FramedOperationsFail := by
  unfold Obligations.FramedOperationsFail
  refine ⟨fun i s x rest hwf hx hp hlock => ?whole, fun s k hh => ?calls⟩
  case whole =>
    obtain ⟨k, hk⟩ := framed_runs hwf hx hp hlock
    refine ⟨fun r ha hr hb => ?_, fun ha => ?_⟩
    · have hbit : r.bit = (exchanged x r k (begun i s)).cfg.notUnderstoodBit := hb
      rw [hk.exec_eq ha, drive_exchangeStarted _ _ _ _ hr, answered_exchangeStarted,
        sampled_notUnderstood hbit, hk.raise_eq]
      exact hk.drive_end hp _ rest rfl
    · rw [hk.exec_eq ha, drive_commFailure rest rfl, frameOut_eq, hk.raise_eq]
      exact hk.drive_end hp _ rest rfl
  case calls =>
    refine ⟨fun hp ha => ?_, fun power hp ha => ?_⟩
    · rw [← frameOut_eq]
      exact (Fed.retryFail hp).step_raises hh ha
    · rw [step_atBit hh ha hp]
      exact congrArg _ (sampled_notUnderstood rfl)

/-- An exchange that is a whole operation changes its own registers only (R200, R205). -/
theorem resume_exchangeFrame {k : ExchCaller} {s t : State} (hk : (∃ use, k = .host use) ∨ k = .wire)
    (hp : s.phase.exchange = some k) (h : resume s = .next t) : ExchangeFrame s t :=
  resume_within (kind := fun p => p.exchange = some k) hp (.of rfl) ExchangeFrame.trans
    (fun _ _ => .of rfl) (feed_exchangeFrame hk) h

/-- Settles O35: an operand outside its type gives a result only; else the start of the exchange is
within the frame, and so is each answer it takes. -/
theorem framedOperationsFrame : Obligations.FramedOperationsFrame := by
  unfold Obligations.FramedOperationsFrame
  refine ⟨fun i s s' x hx hs h => ?issued, fun s s' k hh hp hk h => ?later⟩
  case issued =>
    obtain ⟨hlock, hphase⟩ := hs
    cases hwf : i.wf with
    | false =>
      rw [exec_illegal hwf] at h
      cases h
      exact .of rfl
    | true =>
      obtain ⟨k, hk⟩ := framed_runs hwf hx hphase fun _ => hlock
      rw [hk.run] at h
      have start : ExchangeFrame s (exchangeStarted x k (begun i s)) := .of rfl
      exact start.trans (resume_exchangeFrame hk.whole rfl h)
  case later => exact resume_exchangeFrame hk hp (step_resumes hh h)

end Sys2Proof.Machine

/-! SUPPORT. Proofs of the family 45_transfer: the calls that its two loops make, step 6, the one
`SpeedGet`, and a transfer of one block each way. -/

namespace Sys2Proof.Machine

/-! ### The exchanges of the loops, in the words of the claims (R206, R209 to R212) -/

/-- A run-time code clamps to itself (R87 e). -/
theorem clamp15_code (c : Code) : clamp15 c.val = c := by
  have := c.isLt
  ext
  rw [clamp15_val]
  omega

/-- A poll begun (R173). -/
theorem startPoll_eq (c : PollCaller) (d : Dir) (code : Code) (s : State) :
    startPoll c d code.val s = pollStarted c d code s := by
  rw [startPoll, clamp15_code]
  rfl

section
variable {s t : State} (h : SameConfig s t)
include h

theorem SameConfig.writeHeaderExch (header : List Byte) :
    writeHeaderExch t header = Machine.writeHeaderExch s header := by
  simp only [Machine.writeHeaderExch, h.cfg]

theorem SameConfig.readHeaderExch : readHeaderExch t = Machine.readHeaderExch s := by
  simp only [Machine.readHeaderExch, h.cfg]

theorem SameConfig.writeDataExch (data : List Byte) :
    writeDataExch t data = Machine.writeDataExch s data := by
  simp only [Machine.writeDataExch, h.cfg]

theorem SameConfig.readDataExch (n : Nat) : readDataExch t n = Machine.readDataExch s n := by
  simp only [Machine.readDataExch, h.cfg]

/-! ### What follows each call of the loops (R233, R234) -/

/-- A served poll of the send loop: the next header is written. -/
theorem pollReturn_sendLoop {header : List Byte} {u : State} (hn : nextHeader t = .ok (header, u)) :
    pollReturn .sendLoop t = exchangeStarted (Machine.writeHeaderExch s header) .tSHdr u := by
  have hu : SameConfig s u := by
    obtain ⟨-, -, -, rfl⟩ := nextHeader_ok t hn
    exact { h with }
  rw [← hu.writeHeaderExch, pollReturn, hn]
  exact startExchange_eq ..

/-- A served poll of the receive loop: a header is read. -/
theorem pollReturn_receiveLoop :
    pollReturn .receiveLoop t = exchangeStarted (Machine.readHeaderExch s) .tRHdr t := by
  rw [← h.readHeaderExch]
  exact startExchange_eq ..

/-- The header written: the data that it describes. -/
theorem exchangeReturn_tSHdr {data : List Byte} (hv : t.fragValid = true) (hl : t.curLen ≠ 0)
    (hd : (t.pay.drop t.curOff).take t.curLen = data) :
    exchangeReturn .tSHdr t = exchangeStarted (Machine.writeDataExch s data) .tSData t := by
  rw [← h.writeDataExch, exchangeReturn, nextData_of_described hv (Nat.one_le_iff_ne_zero.2 hl),
    ← hd]
  exact startExchange_eq ..

/-- The data written: the code of the block's run. -/
theorem exchangeReturn_tSData {n : Nat} (hn : (if t.more then 0 else t.rt.val) = n) :
    exchangeReturn .tSData t = exchangeStarted (Machine.writeStatusExch s n) .tSWs t := by
  rw [exchangeReturn, startWriteStatus_eq, h.writeStatusExch, sendCode, ← hn]
  cases t.more <;> rfl

/-- The code written: the run. -/
theorem exchangeReturn_tSWs {n : Nat} (hn : (if t.more then 0 else t.rt.val) = n) :
    exchangeReturn .tSWs t = exchangeStarted (Machine.runExch s n) .tSRun t := by
  rw [exchangeReturn, startRun_eq, h.runExch, sendCode, ← hn]
  cases t.more <;> rfl

/-- A header read: its length byte is tested before its data is read. -/
theorem exchangeReturn_tRHdr {header : List Byte} {n : Byte} (hx : t.xCmd.length = 9)
    (hh : header = (t.xReply.drop 10).take 8) (hn : header[1]? = some n) :
    exchangeReturn .tRHdr t
      = if n.toNat ≤ 120 then exchangeStarted (Machine.readDataExch s n.toNat) (.tRData header) t
        else raise .transfer ⟨.badHeader, .none⟩ t := by
  have hbody : bodyReply (cReply t) Const.headerSize = header := by
    rw [hh, cReply, hx]
    exact bodyReply_commandReply (by decide)
  have hbyte : byteAt header 1 = n := by simp [byteAt, hn]
  rw [exchangeReturn, hbody, headerRead, hbyte, ← h.readDataExch]
  by_cases hle : n.toNat ≤ 120
  · rw [if_pos hle]
    exact (if_neg hle.not_gt).trans (startExchange_eq ..)
  · rw [if_neg hle]
    exact if_pos (Nat.lt_of_not_le hle)

/-- The code written after a block that was not the last: its run. -/
theorem exchangeReturn_tRWs :
    exchangeReturn .tRWs t = exchangeStarted (Machine.runExch s t.minReadRt.val) .tRRun t := by
  rw [exchangeReturn, startRun_eq, h.runExch]

end

section
variable {s : State}

/-- The run of a block that is not the final one: the poll for the next. -/
theorem exchangeReturn_tSRun_more (hm : s.more = true) :
    exchangeReturn .tSRun s = pollStarted .sendLoop .send 0 s := by
  rw [exchangeReturn, if_pos hm]
  exact startPoll_eq ..

/-- The run of the final block: the receive loop is entered. -/
theorem exchangeReturn_tSRun_final (hm : s.more = false) :
    exchangeReturn .tSRun s = pollStarted .receiveLoop .receive s.rt { s with inReceive := true } := by
  rw [exchangeReturn, if_neg (by simp [hm])]
  exact startPoll_eq ..

theorem exchangeReturn_tRRun :
    exchangeReturn .tRRun s = pollStarted .receiveLoop .receive s.rt s := startPoll_eq ..

variable {header data : List Byte} (hx : s.xCmd.length = 1 + (byteAt header 1).toNat)
  (hd : data = (s.xReply.drop 10).take (byteAt header 1).toNat)
include hx hd

/-- The data of a header read is what answered the body of the read (R94, R212). -/
theorem exchangeReturn_tRData : exchangeReturn (.tRData header) s = dataRead header data s := by
  have hbody : bodyReply (cReply s) (byteAt header 1).toNat = data := by
    rw [hd, cReply, hx, Nat.add_comm]
    exact bodyReply_commandReply le_rfl
  rw [exchangeReturn, hbody]

/-- A block accepted: the reply if it is complete, else the code for the next block. -/
theorem exchangeReturn_tRData_accepted {done : Bool} {t : State}
    (ha : acceptBlock header data s.snap s = .ok (done, t)) : exchangeReturn (.tRData header) s
      = if done then endOp .transfer (.ok (.bytes t.acc)) t
        else exchangeStarted (writeStatusExch s s.minReadRt.val) .tRWs t := by
  have hreply : finish t = .ok t.acc ∧ t.cfg = s.cfg ∧ t.minReadRt = s.minReadRt := by
    obtain ⟨hv, -, -, -, rfl⟩ := acceptBlock_ok s ha
    exact ⟨finish_reply hv, rfl, rfl⟩
  obtain ⟨hfinish, hcfg, hrt⟩ := hreply
  rw [exchangeReturn_tRData hx hd, dataRead, ha]
  cases done with
  | true => simp only [orRaise, hfinish, if_true]
  | false =>
    have hexch : writeStatusExch t t.minReadRt.val = writeStatusExch s s.minReadRt.val := by
      simp only [writeStatusExch, hcfg, hrt]
    exact (startWriteStatus_eq ..).trans (by rw [hexch]; rfl)

/-- A block that is not accepted. -/
theorem exchangeReturn_tRData_refused {e : Error} (ha : acceptBlock header data s.snap s = .error e) :
    exchangeReturn (.tRData header) s = raise .transfer e s := by
  rw [exchangeReturn_tRData hx hd, dataRead, ha]
  rfl

end

/-! ### The obligations about the loops -/

theorem bitTaken_sameConfig (s : State) (power b : Bool) : SameConfig s (bitTaken s power b) :=
  ⟨rfl, rfl, rfl, rfl, rfl, rfl⟩

/-- Settles O45: a step that answers the status bit raises `NOT_UNDERSTOOD` or returns to the caller of
the exchange, and each caller goes on as its own lemma above says. -/
theorem transferPhasesFollowTheTable : Obligations.TransferPhasesFollowTheTable := by
  unfold Obligations.TransferPhasesFollowTheTable
  rintro s p power b hh ha rfl
  refine ⟨fun hb k hk hp => ?refused, fun hb => ?understood⟩
  case refused =>
    rw [step_atBit hh ha hp, ← hk]
    exact congrArg _ (sampled_notUnderstood hb)
  case understood =>
    have config := bitTaken_sameConfig s power b
    have hbit : b ≠ (bitTaken s power b).cfg.notUnderstoodBit := hb
    have returns : ∀ {k t}, AtBit s k power → exchangeReturn k (bitTaken s power b) = t →
        step s = .next t := fun hp ht => by
      rw [step_atBit hh ha hp, sampled_understood hbit, ht]
    refine ⟨fun hp hv hl => ?_, fun hp => ?_, fun hp => ?_, fun hp hm => ?_, fun hp hm => ?_,
      fun hp header n hx hheader hn => ?_, fun header data done t hp hx hd hacc => ?_,
      fun header data e hp hx hd hacc => ?_, fun hp => ?_, fun hp => ?_⟩
    · exact returns hp (exchangeReturn_tSHdr config hv hl rfl)
    · exact returns hp (exchangeReturn_tSData config rfl)
    · exact returns hp (exchangeReturn_tSWs config rfl)
    · exact returns hp (exchangeReturn_tSRun_more hm)
    · exact returns hp (exchangeReturn_tSRun_final hm)
    · exact returns hp (exchangeReturn_tRHdr config hx hheader hn)
    · exact returns hp (exchangeReturn_tRData_accepted (s := bitTaken s power b) hx hd hacc)
    · exact returns hp (exchangeReturn_tRData_refused (s := bitTaken s power b) hx hd hacc)
    · exact returns hp (exchangeReturn_tRWs config)
    · exact returns hp exchangeReturn_tRRun

/-- Settles O46: the arm of a served poll returns to the loop that called it. -/
theorem transferPollsLeadOn : Obligations.TransferPollsLeadOn := by
  unfold Obligations.TransferPollsLeadOn
  rintro s p rx hh ha hg rfl hsteady hserved
  have config : SameConfig s (polled s rx) := ⟨rfl, rfl, rfl, rfl, rfl, rfl⟩
  have returns : ∀ {c t}, s.phase = .statusBlock (.poll c) → pollReturn c (polled s rx) = t →
      step s = .next t := fun hp ht =>
    (step_polled hh hp ha hg (pollArm_served hsteady hserved)).trans (congrArg _ ht)
  exact ⟨fun header t hp hn => returns hp (pollReturn_sendLoop config hn),
    fun hp => returns hp (pollReturn_receiveLoop config)⟩

/-! ### Step 6 (R236) -/

/-- The errors of class fatal and `INVALID_PAYLOAD` (R236 a, R251). -/
theorem endsTransfer_of_fatal {c : ErrCode} (h : c = .notSelectable ∨ c = .porUncorrected ∨
    c = .unrecoverable ∨ c = .invalidPayload) : endsTransfer c = true := by
  obtain rfl | rfl | rfl | rfl := h <;> rfl

/-- The errors of class recoverable (R236, R251). -/
theorem endsTransfer_of_recoverable {c : ErrCode} (h : c = .crc ∨ c = .noRoom ∨ c = .noHeader ∨
    c = .badHeader ∨ c = .notUnderstood ∨ c = .comm) : endsTransfer c = false := by
  obtain rfl | rfl | rfl | rfl | rfl | rfl := h <;> rfl

/-- The start of an attempt whose operand `FragInit` accepts (R232, R233). -/
theorem startAttempt_polls {s : State} (h1 : 1 ≤ s.opPayload.length)
    (hm : s.opPayload.length ≤ 16384) :
    startAttempt s = pollStarted .sendLoop .send 0
      (afterInit s.opPayload { s with attempt := s.attempt + 1, inReceive := false }) := by
  rw [startAttempt, fragInit_loads h1 hm]
  exact startPoll_eq ..

/-- The start of an attempt whose operand it refuses (R232, R236 a). -/
theorem startAttempt_refuses {s : State} (h : s.opPayload.length = 0 ∨ 16384 < s.opPayload.length) :
    startAttempt s = transferStop ErrCode.invalidPayload.plain
      { s with attempt := s.attempt + 1, inReceive := false, fragValid := false } := by
  rw [startAttempt, fragInit_refuses h]

/-- Settles O47: the class of the error, then the count of attempts. -/
theorem transferFailureHandling : Obligations.TransferFailureHandling := by
  unfold Obligations.TransferFailureHandling
  rintro s u e rfl
  refine ⟨fun he => if_pos (endsTransfer_of_fatal he), fun he => ?_⟩
  have hclass : ¬ endsTransfer e.code = true := by simp [endsTransfer_of_recoverable he]
  refine ⟨fun hthird => (if_neg hclass).trans (if_pos hthird), fun hmore h1 hm => ?_⟩
  exact ((if_neg hclass).trans (if_neg hmore)).trans (startAttempt_polls h1 hm)

/-! ### `SpeedGet` (R231) -/

/-- A transfer as it begins, with `LOCK` taken (R71, R231). -/
def transferBegun (payload : List Byte) (code : Int) (s : State) : State :=
  startTransfer payload code { s with lock := true }

/-- `TRANSFER` issued in a ready state. -/
theorem exec_transfer {s : State} (payload : List Byte) (code : Int) (hs : Ready s) :
    exec (.transfer payload code) s = drive s.answers (transferBegun payload code s) :=
  exec_ready rfl rfl hs rfl

/-- Settles O44: the answer of `SpeedGet` ends the transfer, at the wrong speed itself, else with the
payload that `FragInit` refuses. -/
theorem transferRefusals : Obligations.TransferRefusals := by
  unfold Obligations.TransferRefusals
  intro s payload code rest hs
  have answered : ∀ {sp}, s.answers = [.speed sp] ++ rest → exec (.transfer payload code) s
      = drive rest (speedAnswered code sp (transferBegun payload code s)) := fun ha => by
    rw [exec_transfer payload code hs, ha]
    exact (Fed.speed rfl).drive rest
  refine ⟨fun ha => ?_, fun ha hsize => ?_⟩
  · exact (answered ha).trans (drive_ended hs _ rest rfl)
  · have hstop : speedAnswered code .overdrive (transferBegun payload code s) = _ :=
      startAttempt_refuses hsize
    rw [answered ha, hstop]
    exact drive_ended hs _ rest rfl

/-! ### `SpeedGet` once (R239 a) -/

/-- The call being made, if any, is not the `SpeedGet` of a transfer. -/
structure PastSpeed (t : State) : Prop where
  phase : ∀ code, t.phase ≠ .tSpeed code

section
variable (s : State)

theorem startExchange_pastSpeed (c rel : List Byte) (p : Bool) (ms : Nat) (k : ExchCaller) :
    PastSpeed (startExchange c rel p ms k s) := ⟨nofun⟩

theorem startPoll_pastSpeed (c : PollCaller) (d : Dir) (code : Int) :
    PastSpeed (startPoll c d code s) := ⟨nofun⟩

theorem endOp_pastSpeed (o : Owner) (r : Result) : PastSpeed (endOp o r s) := ⟨nofun⟩

theorem startAttempt_pastSpeed : PastSpeed (startAttempt s) := by
  rw [startAttempt_eq]
  split
  · exact endOp_pastSpeed ..
  · exact startPoll_pastSpeed ..

/-- The next attempt begins with its poll: the speed is not read again (R236, R239 a). -/
theorem raise_pastSpeed (o : Owner) (e : Error) : PastSpeed (raise o e s) := by
  cases o with
  | host | caller => exact endOp_pastSpeed ..
  | transfer =>
    simp only [raise, transferFail]
    split
    · exact endOp_pastSpeed ..
    · split
      · exact endOp_pastSpeed ..
      · exact startAttempt_pastSpeed _

theorem orRaise_pastSpeed {α : Type} (r : Except Error α) {go : α → State}
    (h : ∀ a, PastSpeed (go a)) : PastSpeed (orRaise r s go) := by
  cases r with
  | error e => exact raise_pastSpeed s .transfer e
  | ok a => exact h a

theorem pollNext_pastSpeed (c : PollCaller) : PastSpeed (pollNext c s) := by
  unfold pollNext
  split
  · exact raise_pastSpeed ..
  · exact ⟨nofun⟩

theorem pollAct_pastSpeed (c : PollCaller) (a : Arm) : PastSpeed (pollAct c a s) := by
  cases a with
  | succeed =>
    cases c with
    | host => exact endOp_pastSpeed ..
    | sendLoop => exact orRaise_pastSpeed _ _ fun _ => startExchange_pastSpeed ..
    | receiveLoop => exact startExchange_pastSpeed ..
  | fail e => exact raise_pastSpeed ..
  | porRecover | busy | firstBirthday | masterErase | commandNotComplete | responseIncomplete
  | vmIncomplete => exact startExchange_pastSpeed ..

theorem statusAnswered_pastSpeed (c : StatusCaller) (rx : List Byte) :
    PastSpeed (statusAnswered c rx s) := by
  unfold statusAnswered
  dsimp only
  split
  · cases c with
    | host | wire => exact endOp_pastSpeed ..
    | poll c => exact pollAct_pastSpeed ..
  · exact raise_pastSpeed ..

theorem headerRead_pastSpeed (h : List Byte) : PastSpeed (headerRead h s) := by
  unfold headerRead
  split
  · exact raise_pastSpeed ..
  · exact startExchange_pastSpeed ..

theorem dataRead_pastSpeed (h d : List Byte) : PastSpeed (dataRead h d s) := by
  refine orRaise_pastSpeed _ _ fun ⟨done, t⟩ => ?_
  cases done with
  | true => exact orRaise_pastSpeed _ _ fun _ => endOp_pastSpeed ..
  | false => exact startExchange_pastSpeed ..

theorem exchangeReturn_pastSpeed (k : ExchCaller) : PastSpeed (exchangeReturn k s) := by
  cases k with
  | host | wire => exact endOp_pastSpeed ..
  | pollWrite | porWrite | tSData | tSWs | tRWs => exact startExchange_pastSpeed ..
  | pollRun | pollBump => exact pollNext_pastSpeed ..
  | porRun p =>
    cases p with
    | alone => exact endOp_pastSpeed ..
    | poll c => exact pollNext_pastSpeed ..
  | tSHdr => exact orRaise_pastSpeed _ _ fun _ => startExchange_pastSpeed ..
  | tSRun =>
    simp only [exchangeReturn]
    split <;> exact startPoll_pastSpeed ..
  | tRHdr => exact headerRead_pastSpeed ..
  | tRData h => exact dataRead_pastSpeed ..
  | tRRun => exact startPoll_pastSpeed ..

theorem sampled_pastSpeed (k : ExchCaller) (b : Bool) : PastSpeed (sampled k b s) := by
  unfold sampled
  split
  · exact raise_pastSpeed ..
  · exact exchangeReturn_pastSpeed ..

theorem speedAnswered_pastSpeed (code : Int) (sp : Speed) : PastSpeed (speedAnswered code sp s) := by
  cases sp with
  | regular => exact endOp_pastSpeed ..
  | overdrive => exact startAttempt_pastSpeed _

end

/-- No move of the block asks for the speed. -/
theorem Fed.pastSpeed {a : Answer} {s t : State} (h : Fed s a t) : PastSpeed t := by
  cases h with
  | speed => exact speedAnswered_pastSpeed ..
  | @select _ ok => cases ok <;> exact ⟨nofun⟩
  | @selectAgain _ ok =>
    cases ok
    · exact raise_pastSpeed ..
    · exact ⟨nofun⟩
  | status => exact statusAnswered_pastSpeed ..
  | statusFail | retryFail => exact raise_pastSpeed ..
  | block =>
    simp only [blockAnswered]
    split <;> exact ⟨nofun⟩
  | blockFail | smart => exact ⟨nofun⟩
  | powerBit | bit => exact sampled_pastSpeed ..

/-- An event that is no `SpeedGet`. -/
def Event.NotSpeed (e : Event) : Prop := e.isSpeedGet = false

/-- The block's own events are none. -/
theorem Event.Own.notSpeed {e : Event} (h : e.Own) : e.NotSpeed := by
  cases e with
  | speedGet => cases h
  | _ => rfl

/-- The answer of `SpeedGet` is recorded first, and then events of the block's own (R239 a). -/
theorem speedAnswered_own (code : Int) (sp : Speed) (s : State) :
    Extends Event.Own (speedAnswered code sp s) (s.trace ++ [.speedGet sp]) := by
  cases sp with
  | regular => exact .same
  | overdrive => exact startAttempt_own { emit [.speedGet .overdrive] s with rt := _, attempt := 0 }

/-- A list of events without `SpeedGet`, in the words of the claim. -/
theorem forall_notSpeed {es : List Event} :
    (∀ e ∈ es, e.NotSpeed) ↔ es.all (fun e => !e.isSpeedGet) = true := by
  simp [Event.NotSpeed]

/-- The events of a call other than `SpeedGet`. -/
theorem Extends.call {es : List Event} {s t : State} (ht : t.trace = s.trace ++ es)
    (hes : es.all (fun e => !e.isSpeedGet) = true := by rfl) : Extends Event.NotSpeed t s.trace :=
  ⟨es, ht, forall_notSpeed.2 hes⟩

/-- And then events of the block's own. -/
theorem Extends.callOwn {es : List Event} {s t : State} (h : Extends Event.Own t (emit es s).trace)
    (hes : es.all (fun e => !e.isSpeedGet) = true := by rfl) : Extends Event.NotSpeed t s.trace :=
  .trans (.call (t := emit es s) rfl hes) (h.mono fun _ => Event.Own.notSpeed)

/-- Past its `SpeedGet` a call makes no such event. -/
theorem Fed.notSpeed {a : Answer} {s t : State} (h : Fed s a t) (hs : PastSpeed s) :
    Extends Event.NotSpeed t s.trace := by
  cases h with
  | speed hp => exact absurd hp (hs.phase _)
  | @select _ ok => cases ok <;> exact .call rfl
  | @selectAgain _ ok =>
    cases ok
    · exact .callOwn (raise_own ..)
    · exact .call rfl
  | status => exact .callOwn (statusAnswered_own ..)
  | statusFail | retryFail => exact .callOwn (raise_own ..)
  | block | blockFail | smart => exact .call rfl
  | powerBit | bit => exact .callOwn (sampled_own ..)

/-- What a run on answers keeps past the `SpeedGet`, with the record as it was at some earlier time. -/
structure AfterSpeed (base : List Event) (t : State) : Prop where
  past : PastSpeed t
  events : Extends Event.NotSpeed t base

theorem drive_afterSpeed {base : List Event} {as : List Answer} {s t : State} (h : AfterSpeed base s)
    (hr : drive as s = .next t) : AfterSpeed base t :=
  drive_keeps (P := AfterSpeed base)
    (fun _ _ _ hu hi hf =>
      ⟨(feed_fed hi hf).pastSpeed, hu.events.trans ((feed_fed hi hf).notSpeed hu.past)⟩)
    (fun _ _ hu => ⟨⟨hu.past.phase⟩, hu.events⟩) as s t h hr

/-- A run from the `SpeedGet` of a transfer appends its event first and no other. -/
theorem drive_speed {code : Int} {a : Answer} {as : List Answer} {s t : State}
    (hp : s.phase = .tSpeed code) (hr : drive (a :: as) s = .next t) :
    ∃ sp, AfterSpeed (s.trace ++ [.speedGet sp]) t := by
  have hi : s.phase ≠ .idle := by simp [hp]
  cases hf : feed a s with
  | fault | refused => simp [drive, hp, hf] at hr
  | next u =>
    rw [drive_cons hi hf] at hr
    cases feed_fed hi hf with
    | @speed code sp =>
      have answered : AfterSpeed (s.trace ++ [.speedGet sp]) (speedAnswered code sp s) :=
        ⟨speedAnswered_pastSpeed .., (speedAnswered_own ..).mono fun _ => Event.Own.notSpeed⟩
      exact ⟨sp, drive_afterSpeed answered hr⟩
    | block h => simp [hp] at h
    | select h | selectAgain h | status h | statusFail h | blockFail h | retryFail h | smart h
    | powerBit h | bit h => simp [hp] at h

/-- The events of the record in the words of the claim. -/
theorem AfterSpeed.all {base : List Event} {t : State} (h : AfterSpeed base t) :
    ∃ es : List Event, t.trace = base ++ es ∧ es.all (fun e => !e.isSpeedGet) = true := by
  obtain ⟨es, he, hes⟩ := h.events
  exact ⟨es, he, forall_notSpeed.1 hes⟩

/-- Settles O50: the first answer of a transfer is that of `SpeedGet`, and no move asks for it again. -/
theorem speedIsReadOnce : Obligations.SpeedIsReadOnce := by
  unfold Obligations.SpeedIsReadOnce
  have first : ∀ {s t : State} {code : Int}, s.phase = .tSpeed code → s.answers ≠ [] →
      drive s.answers s = .next t → ∃ (sp : Speed) (es : List Event),
        t.trace = s.trace ++ [.speedGet sp] ++ es ∧ es.all (fun e => !e.isSpeedGet) = true := by
    intro s t code hp ha hr
    obtain ⟨a, as, hcons⟩ := List.exists_cons_of_ne_nil ha
    rw [hcons] at hr
    obtain ⟨sp, h⟩ := drive_speed hp hr
    exact ⟨sp, h.all⟩
  refine ⟨fun s s' payload code hs h => ?issued, fun s s' hh h => ?later⟩
  case issued =>
    rw [exec_transfer payload code hs] at h
    refine ⟨fun ha => ?_, fun ha => first (s := transferBegun payload code s) rfl ha h⟩
    rw [ha, drive_nil] at h
    cases h
    exact ⟨rfl, rfl⟩
  case later =>
    have hr := step_resumes hh h
    refine ⟨fun code hp ha => first hp ha hr, fun hs => ?_⟩
    have after : AfterSpeed s.trace s' := drive_afterSpeed ⟨⟨hs⟩, .same⟩ hr
    exact ⟨after.past.phase, after.all⟩

/-! ### A transfer of one block each way -/

/-- A status reply that passes its check and serves a poll in a direction (R170, R181). -/
structure Serves (s : State) (dir : Dir) (rx : List Byte) : Prop where
  good : GoodStatus s rx
  steady : Steady s.cfg (snapshotOf s rx)
  served : Served dir (snapshotOf s rx)

section
variable {s t : State} {dir : Dir} {code : Code} {tx : List (List Byte)} {ms : List Nat}
variable (h : Polled s dir t code tx ms)
include h

/-- A served poll of any caller returns to it. -/
theorem Polled.served {c : PollCaller} {rx : List Byte} (hp : t.phase = .select (.poll c))
    (hrx : Serves s dir rx) :
    (∀ as, drive (statusAnswers rx ++ as) t
        = drive as (pollReturn c (statusTaken c rx .succeed t))) ∧
      Polled s dir (statusTaken c rx .succeed t) code (tx ++ [statusFrame s.cfg]) ms := by
  have harm : pollArm t.cfg t.pollDir t.porArmed (snapshotOf t rx) = .succeed := by
    rw [h.config.cfg, h.dir, h.config.snapshotOf]
    exact pollArm_served hrx.steady hrx.served
  refine ⟨fun as => drive_pollStatus as hp (h.config.goodStatus hrx.good) harm, ?_⟩
  have hsent : sent (statusEvents t rx) = [statusFrame s.cfg] := by
    rw [← h.config.cfg]
    rfl
  rw [← hsent, ← List.append_nil ms, ← h.code]
  exact h.append ⟨rfl, rfl, rfl, rfl, rfl, rfl⟩ rfl rfl rfl

/-- A new poll, in a direction and with a code of its own (R173). -/
theorem Polled.restart (c : PollCaller) (dir' : Dir) (code' : Code) {u : State}
    (hc : SameConfig t u) (ht : u.trace = t.trace) :
    Polled s dir' (pollStarted c dir' code' u) code' tx ms := by
  obtain ⟨⟨hcfg, haddr, hcorr, hbase, hincr, hhost⟩, -, -, es, htrace, hsent, hsleeps⟩ := h
  exact ⟨⟨hc.cfg.trans hcfg, hc.addr.trans haddr, hc.corr.trans hcorr, hc.tBase.trans hbase,
    hc.tIncr.trans hincr, hc.host.trans hhost⟩, rfl, rfl, es, ht.trans htrace, hsent, hsleeps⟩

/-- An exchange of the transfer, at the first try and understood: its caller goes on, with its command
and its reply in the frame scratch (R94, R200). -/
theorem Polled.call {x : Exch} {r : Reply} (k : ExchCaller) (hr : r.Understood s x) :
    ∃ u, (∀ as, drive (exchangeAnswers x r ++ as) (exchangeStarted x k t)
        = drive as (exchangeReturn k u)) ∧
      Polled s dir u code (tx ++ [frameSent s x]) (ms ++ x.waits) ∧ ExchangeFrame t u ∧
      u.xCmd = x.cmd ∧ u.xReply = r.rx := by
  obtain ⟨hdrive, hpolled⟩ := h.exchange k hr
  exact ⟨_, hdrive, hpolled, .of rfl, rfl, rfl⟩

end

/-- The registers that a transfer understood at its first attempt leaves as that attempt found them. -/
structure SameAttempt (s t : State) : Prop where
  rt : t.rt = s.rt
  attempt : t.attempt = s.attempt
  porArmed : t.porArmed = s.porArmed
  porAdjust : t.porAdjust = s.porAdjust
  minReadRt : t.minReadRt = s.minReadRt
  fragValid : t.fragValid = s.fragValid

theorem SameAttempt.trans {s t u : State} (h : SameAttempt s t) (k : SameAttempt t u) :
    SameAttempt s u :=
  ⟨k.rt.trans h.rt, k.attempt.trans h.attempt, k.porArmed.trans h.porArmed,
    k.porAdjust.trans h.porAdjust, k.minReadRt.trans h.minReadRt, k.fragValid.trans h.fragValid⟩

theorem ExchangeFrame.sameAttempt {s t : State} (h : ExchangeFrame s t) : SameAttempt s t := by
  unfold ExchangeFrame at h
  rw [h]
  exact ⟨rfl, rfl, rfl, rfl, rfl, rfl⟩

/-- A header has described the final block, whose data is a given string (R151, R152). -/
structure FinalBlock (data : List Byte) (s : State) : Prop where
  valid : s.fragValid = true
  described : s.curLen ≠ 0
  slice : (s.pay.drop s.curOff).take s.curLen = data
  last : s.more = false

/-- Exchanges leave it described. -/
theorem FinalBlock.exchange {data : List Byte} {s t : State} (h : FinalBlock data s)
    (hf : ExchangeFrame s t) : FinalBlock data t := by
  unfold ExchangeFrame at hf
  rw [hf]
  exact { h with }

/-- The only block of a payload of at most 120 bytes is the payload (R151, R157). -/
theorem AtBlock.finalBlock {payload : List Byte} {cfg : Cfg} {s : State}
    (h : AtBlock payload cfg 0 s) (hlen : payload.length ≤ 120) :
    FinalBlock payload (afterHeader s) where
  valid := h.valid
  described := Nat.one_le_iff_ne_zero.1 (h.frag.one_le_nextLen h.more)
  slice := by
    have hl : nextLen s = payload.length := by
      have := h.len_eq
      omega
    change (s.pay.drop s.cursor).take (nextLen s) = payload
    rw [h.pay, h.cursor, hl, List.drop_zero, List.take_length]
  last := Bool.eq_false_iff.2 fun hm => by
    have := h.afterHeader_more.1 hm
    omega

/-- The exchanges that send the final block (R233). -/
def sendCalls (s : State) (header data : List Byte) (n : Nat) : List Exch :=
  [writeHeaderExch s header, writeDataExch s data, writeStatusExch s n, runExch s n]

/-- The exchanges that read a block (R234). -/
def receiveCalls (s : State) (n : Nat) : List Exch := [readHeaderExch s, readDataExch s n]

/-- What the device does in a send loop of one block: it serves the poll and understands the header, the
data, the code and the run (R233). -/
structure BlockTaken (s : State) (rx header payload : List Byte) (n : Nat) (wh wd ws rn : Reply) :
    Prop where
  status : Serves s .send rx
  header : wh.Understood s (writeHeaderExch s header)
  data : wd.Understood s (writeDataExch s payload)
  code : ws.Understood s (writeStatusExch s n)
  run : rn.Understood s (runExch s n)

/-- The send loop with one block leads to the receive loop (R233). -/
theorem BlockTaken.entersReceive {s t : State} {code : Code} {tx : List (List Byte)} {ms : List Nat}
    {payload header rx : List Byte} {n : Nat} {wh wd ws rn : Reply}
    (hd : BlockTaken s rx header payload n wh wd ws rn) (h : Polled s .send t code tx ms)
    (hp : t.phase = .select (.poll .sendLoop)) (hb : AtBlock payload s.cfg 0 t)
    (hlen : payload.length ≤ 120) (hheader : header = nextHeaderBytes t) (hn : t.rt.val = n) :
    ∃ u code', (∀ as, drive (statusAnswers rx ++ (exchangeAnswers (writeHeaderExch s header) wh
        ++ (exchangeAnswers (writeDataExch s payload) wd
        ++ (exchangeAnswers (writeStatusExch s n) ws
        ++ (exchangeAnswers (runExch s n) rn ++ as))))) t = drive as u) ∧
      u.phase = .select (.poll .receiveLoop) ∧ SameAttempt t u ∧ u.acc = t.acc ∧
      Polled s .receive u code'
        (tx ++ statusFrame s.cfg :: (sendCalls s header payload n).map (frameSent s))
        (ms ++ ((sendCalls s header payload n).map Exch.waits).flatten) := by
  obtain ⟨hpoll, polled⟩ := h.served hp hd.status
  obtain ⟨v, hv⟩ : ∃ v, v = afterHeader (statusTaken .sendLoop rx .succeed t) := ⟨_, rfl⟩
  have block : FinalBlock payload v := by
    have := hb.finalBlock hlen
    rw [hv]
    exact { this with }
  have hwrite : pollReturn .sendLoop (statusTaken .sendLoop rx .succeed t)
      = exchangeStarted (writeHeaderExch s header) .tSHdr v := by
    refine pollReturn_sendLoop polled.config ?_
    rw [hheader, hv]
    exact nextHeader_formed hb.valid hb.more
  have formed : Polled s .send v code (tx ++ [statusFrame s.cfg]) ms := by
    rw [hv]
    exact { polled with config := { polled.config with } }
  have same : SameAttempt t v ∧ v.acc = t.acc := hv ▸ ⟨⟨rfl, rfl, rfl, rfl, rfl, rfl⟩, rfl⟩
  obtain ⟨u₁, hheads, headed, frame₁, -, -⟩ := formed.call .tSHdr hd.header
  obtain ⟨u₂, hfills, filled, frame₂, -, -⟩ := headed.call .tSData hd.data
  obtain ⟨u₃, hcodes, coded, frame₃, -, -⟩ := filled.call .tSWs hd.code
  obtain ⟨u₄, hruns, ran, frame₄, -, -⟩ := coded.call .tSRun hd.run
  have within₂ := frame₁.trans frame₂
  have within₃ := within₂.trans frame₃
  have within₄ := within₃.trans frame₄
  have hcode : ∀ {u}, ExchangeFrame v u → (if u.more then 0 else u.rt.val) = n := fun {u} hf => by
    rw [(block.exchange hf).last, hf.sameAttempt.rt, same.1.rt]
    exact hn
  obtain ⟨hvalid, hdescribed, hslice, -⟩ := block.exchange frame₁
  refine ⟨pollStarted .receiveLoop .receive u₄.rt { u₄ with inReceive := true }, u₄.rt,
    fun as => ?_, rfl, { same.1.trans within₄.sameAttempt with },
    (congrArg State.acc within₄).trans same.2, ?_⟩
  · rw [hpoll, hwrite, hheads, exchangeReturn_tSHdr headed.config hvalid hdescribed hslice, hfills,
      exchangeReturn_tSData filled.config (hcode within₂), hcodes,
      exchangeReturn_tSWs coded.config (hcode within₃), hruns,
      exchangeReturn_tSRun_final (block.exchange within₄).last]
  · simpa [sendCalls] using ran.restart .receiveLoop .receive u₄.rt
      (u := { u₄ with inReceive := true }) ⟨rfl, rfl, rfl, rfl, rfl, rfl⟩ rfl

/-- The CRC of a block read, in the words of the claims (R155). -/
theorem blockResidual_eq {header : List Byte} {n : Byte} (cfg : Cfg) (data : List Byte)
    (hl : header.length = 8) (hn : header[1]? = some n) : blockResidual cfg header data
      = crc16 cfg cfg.blockCrcSeed ([n] ++ data ++ (header.drop 4).take 2) := by
  match header, hl with
  | [_, _, _, _, _, _, _, _], _ =>
    cases hn
    rfl

/-- What the device shows in a receive loop of one block: a served poll whose snapshot says that the
command is complete, a header, and the block of its length, which passes the check (R234, R235). -/
structure LastBlock (s : State) (rx header data : List Byte) (n : Byte) (rh rd : Reply) : Prop where
  status : Serves s .receive rx
  complete : (snapshotOf s rx).sub = s.cfg.scCommandComplete
  header_eq : header = (rh.rx.drop 10).take 8
  length : header[1]? = some n
  atMost : n.toNat ≤ 120
  data_eq : data = (rd.rx.drop 10).take n.toNat
  residual : crc16 s.cfg s.cfg.blockCrcSeed ([n] ++ data ++ (header.drop 4).take 2)
      = goodResidual s.cfg ∨
    crc16 s.cfg s.cfg.blockCrcSeed ([n] ++ data ++ (header.drop 4).take 2)
      ^^^ correction s.corr n.toNat = goodResidual s.cfg
  headerRead : rh.Understood s (readHeaderExch s)
  dataRead : rd.Understood s (readDataExch s n.toNat)

section
variable {s : State} {rx header data : List Byte} {n : Byte} {rh rd : Reply}
variable (hb : LastBlock s rx header data n rh rd)
include hb

/-- The length byte of the header. -/
theorem LastBlock.byteAt_eq : byteAt header 1 = n := by simp [byteAt, hb.length]

/-- `AcceptBlock` accepts it and finds the reply complete (R155). -/
theorem LastBlock.accepted {t : State} (hv : t.fragValid = true) (hc : SameConfig s t)
    (hs : t.snap = snapshotOf s rx) : acceptBlock header data t.snap t
      = .ok (true, { t with acc := t.acc ++ data.drop 3 }) := by
  have hheader : header.length = 8 := by
    have hl : rh.rx.length = 9 + (readHeaderExch s).cmd.length + (readHeaderExch s).rel.length :=
      hb.headerRead.1
    simp only [readHeaderExch, List.length_cons, List.length_replicate] at hl
    rw [hb.header_eq, List.length_take, List.length_drop]
    omega
  have hdata : data.length = (byteAt header 1).toNat := by
    have hl : rd.rx.length = 9 + (readDataExch s n.toNat).cmd.length
        + (readDataExch s n.toNat).rel.length := hb.dataRead.1
    simp only [readDataExch, List.length_cons, List.length_replicate] at hl
    rw [hb.byteAt_eq, hb.data_eq, List.length_take, List.length_drop]
    omega
  have hresidual : accepts t.cfg t.corr (blockResidual t.cfg header data)
      (byteAt header 1).toNat = true := by
    rw [hc.cfg, hc.corr, blockResidual_eq _ _ hheader hb.length, hb.byteAt_eq]
    simpa only [accepts, Bool.or_eq_true, beq_iff_eq] using hb.residual
  have hcomplete : (t.snap.sub == t.cfg.scCommandComplete) = true := by
    rw [hs, hc.cfg, hb.complete, beq_self_eq_true]
  rw [acceptBlock_accepts hv hdata hresidual, hcomplete]
  rfl

/-- The receive loop with one block: a served poll, the header and the data, whose acceptance ends the
transfer with the accumulator (R234, R235). -/
theorem LastBlock.endsTransfer {t : State} {code : Code} {tx : List (List Byte)} {ms : List Nat}
    (h : Polled s .receive t code tx ms) (hp : t.phase = .select (.poll .receiveLoop))
    (hv : t.fragValid = true) :
    ∃ u, (∀ as, drive (statusAnswers rx ++ (exchangeAnswers (readHeaderExch s) rh
        ++ (exchangeAnswers (readDataExch s n.toNat) rd ++ as))) t
          = .next { endOp .transfer (.ok (.bytes u.acc)) u with answers := as }) ∧
      SameAttempt t u ∧ u.acc = t.acc ++ data.drop 3 ∧
      Polled s .receive u code
        (tx ++ statusFrame s.cfg :: (receiveCalls s n.toNat).map (frameSent s))
        (ms ++ ((receiveCalls s n.toNat).map Exch.waits).flatten) := by
  obtain ⟨hpoll, polled⟩ := h.served hp hb.status
  obtain ⟨v, hv'⟩ : ∃ v, v = statusTaken .receiveLoop rx .succeed t := ⟨_, rfl⟩
  rw [← hv'] at hpoll polled
  have same : SameAttempt t v ∧ v.acc = t.acc := hv' ▸ ⟨⟨rfl, rfl, rfl, rfl, rfl, rfl⟩, rfl⟩
  have snap : v.snap = snapshotOf s rx := by
    rw [← h.config.snapshotOf, hv']
    rfl
  obtain ⟨u₁, hreads, headed, frame₁, hcmd₁, hreply₁⟩ := polled.call .tRHdr hb.headerRead
  obtain ⟨u₂, hfills, filled, frame₂, hcmd₂, hreply₂⟩ := headed.call (.tRData header) hb.dataRead
  have last : ExchangeFrame v u₂ := frame₁.trans frame₂
  have valid : u₂.fragValid = true := last.sameAttempt.fragValid.trans (same.1.fragValid.trans hv)
  have accepted := hb.accepted valid filled.config ((congrArg State.snap last).trans snap)
  have hlength : u₂.xCmd.length = 1 + (byteAt header 1).toNat := by
    rw [hcmd₂, hb.byteAt_eq, readDataExch, List.length_cons, List.length_replicate, Nat.add_comm]
  have hdata : data = (u₂.xReply.drop 10).take (byteAt header 1).toNat := by
    rw [hreply₂, hb.byteAt_eq]
    exact hb.data_eq
  have hreturn : exchangeReturn .tRHdr u₁
      = exchangeStarted (readDataExch s n.toNat) (.tRData header) u₁ :=
    (exchangeReturn_tRHdr headed.config (by rw [hcmd₁]; rfl) (by rw [hreply₁]; exact hb.header_eq)
      hb.length).trans (if_pos hb.atMost)
  refine ⟨{ u₂ with acc := u₂.acc ++ data.drop 3 }, fun as => ?_,
    { same.1.trans last.sameAttempt with },
    congrArg (· ++ data.drop 3) ((congrArg State.acc last).trans same.2), ?_⟩
  · rw [hpoll, pollReturn_receiveLoop polled.config, hreads, hreturn, hfills,
      exchangeReturn_tRData_accepted hlength hdata accepted, if_pos rfl]
    exact drive_idle rfl as
  · have ended : Polled s .receive { u₂ with acc := u₂.acc ++ data.drop 3 } code _ _ :=
      { filled with config := { filled.config with } }
    simpa [receiveCalls] using ended

end

/-- A transfer at the first poll of its first attempt, the speed being right (R231, R232, R233). -/
def firstPoll (payload : List Byte) (code : Int) (s : State) : State :=
  pollStarted .sendLoop .send 0 (afterInit payload { transferBegun payload code s with
    rt := clamp15 code, attempt := 1, inReceive := false, trace := s.trace ++ [.speedGet .overdrive] })

theorem speedAnswered_overdrive {payload : List Byte} (code : Int) (s : State)
    (h1 : 1 ≤ payload.length) (hm : payload.length ≤ 16384) :
    speedAnswered code .overdrive (transferBegun payload code s) = firstPoll payload code s :=
  startAttempt_polls (s := { emit [.speedGet .overdrive] (transferBegun payload code s) with
    rt := clamp15 code, attempt := 0 }) h1 hm

/-- It has made one event, neither a `DataBlock` nor a wait. -/
theorem firstPoll_polled (payload : List Byte) (code : Int) (s : State) :
    Polled s .send (firstPoll payload code s) 0 [] [] :=
  ⟨⟨rfl, rfl, rfl, rfl, rfl, rfl⟩, rfl, rfl, [.speedGet .overdrive], rfl, rfl, rfl⟩

/-- Its first block is to be formed. -/
theorem firstPoll_atBlock {payload : List Byte} (code : Int) (s : State) (h1 : 1 ≤ payload.length)
    (hm : payload.length ≤ 16384) : AtBlock payload s.cfg 0 (firstPoll payload code s) := by
  have loaded := afterInit_atBlock s h1 hm
  exact { loaded with frag := loaded.frag.congr }

/-- Settles O48: the speed, the send loop and the receive loop, each with one block. -/
theorem transferOneBlockEachWay : Obligations.TransferOneBlockEachWay := by
  unfold Obligations.TransferOneBlockEachWay
  intro s payload code st1 st2 hdr header data n wh wd ws rn rh rd rest hs h1 hlen hhdr hg1 hsteady1
    hserved1 hg2 hsteady2 hserved2 hsub hheader hn hle hdata hcrc hwh hwd hws hrn hrh hrd hall ha
  simp only [List.forall_mem_cons, List.not_mem_nil, false_imp_iff, implies_true, and_true] at hall
  obtain ⟨hwh', hwd', hws', hrn', hrh', hrd'⟩ := hall
  have hm : payload.length ≤ 16384 := by omega
  have taken : BlockTaken s st1 hdr payload (clamped code) wh wd ws rn :=
    ⟨⟨hg1, hsteady1, hserved1⟩, ⟨hwh, hwh'⟩, ⟨hwd, hwd'⟩, ⟨hws, hws'⟩, ⟨hrn, hrn'⟩⟩
  have block : LastBlock s st2 header data n rh rd :=
    ⟨⟨hg2, hsteady2, hserved2⟩, hsub, hheader, hn, hle, hdata, hcrc, ⟨hrh, hrh'⟩, ⟨hrd, hrd'⟩⟩
  have hnext : hdr = nextHeaderBytes (firstPoll payload code s) := by
    rw [hhdr, fragInit_loads h1 hm]
    rfl
  obtain ⟨u, _, hsend, hphase, same, hacc, polled⟩ :=
    taken.entersReceive (firstPoll_polled payload code s) rfl (firstPoll_atBlock code s h1 hm) hlen
      hnext (clamped_eq code).symm
  obtain ⟨v, hreceive, same', hacc', -, -, -, es, htrace, hsent, hsleeps⟩ :=
    block.endsTransfer polled hphase same.fragValid
  have hreply : v.acc = data.drop 3 := by
    rw [hacc', hacc]
    rfl
  obtain ⟨hrt, hattempt, harmed, hadjust, hmin, -⟩ := same.trans same'
  refine ⟨{ endOp .transfer (.ok (.bytes v.acc)) v with answers := rest }, es, ?_, ?_, rfl, rfl, rfl,
    hattempt, hrt, harmed, hadjust, hmin, hreply, htrace, hsent, ?_⟩
  · simp only [List.append_assoc] at ha
    rw [exec_transfer payload code hs, ha, List.singleton_append, (Fed.speed rfl).drive,
      speedAnswered_overdrive code s h1 hm, hsend, hreceive]
  · rw [← hreply]
    rfl
  · rw [hsleeps]
    simp [sendCalls, receiveCalls]

end Sys2Proof.Machine

/-! SUPPORT. Proofs of the family 70_reset_and_hazards: block reset in IDLE and inside an operation. -/

namespace Sys2Proof.Machine

/-! ### Block reset (R290, U7) -/

/-- A block reset at the head of the host port is what the step takes. -/
theorem step_reset {s : State} {addr : Addr} {rest : List Request}
    (h : s.host = .reset addr :: rest) : step s = blockReset addr rest s := by
  rw [step, h]

/-- In IDLE the registers are those after reset, and what is outside the block stays (log 17). -/
theorem blockReset_idle (addr : Addr) (rest : List Request) {s : State} (h : s.phase = .idle) :
    blockReset addr rest s = .next { State.initial s.cfg addr with
      host := rest, answers := s.answers, trace := s.trace } := by
  rw [blockReset, h]

/-- Inside an operation block reset has no rule, and is refused. -/
theorem blockReset_underWay (addr : Addr) (rest : List Request) {s : State} (h : s.phase ≠ .idle) :
    blockReset addr rest s = .refused .resetInOperation := by
  unfold blockReset
  split
  · exact absurd ‹s.phase = .idle› h
  · rfl

/-- Settles O53: the step is the block reset, by the phase it finds. -/
theorem blockResetOnlyInIdle : Obligations.BlockResetOnlyInIdle := by
  unfold Obligations.BlockResetOnlyInIdle
  intro s addr rest hh
  rw [step_reset hh]
  exact ⟨blockReset_idle addr rest, blockReset_underWay addr rest⟩

end Sys2Proof.Machine
